-- ==== Sys2Proof/Word.lean ====
section
/-! DEFINITION. The values of the engine (00_scope.md rules R9 to R11): bytes, byte sequences, blocks whose length is
part of their type, and the 32-bit command word. -/

namespace Sys2Proof

/-- A byte: an integer in [0, 255] (R9); bit 7 is the most significant bit (R11). -/
abbrev Byte := BitVec 8

/-- `Bytes`: a finite sequence of bytes, byte 0 first (R9, R61). -/
abbrev Bytes := List Byte

/-- A byte sequence of exactly `n` bytes; "length is part of the type" (R9). -/
abbrev Block (n : Nat) := Vector Byte n

/-- A lane (R7). -/
abbrev Block16 := Block 16

/-- A hash block, a hash state, a digest, two lanes (R7, R62). -/
abbrev Block32 := Block 32

/-- Four lanes (R62). -/
abbrev Block64 := Block 64

/-- `CMD`, the 32-bit command word (R80). -/
abbrev CommandWord := BitVec 32

end Sys2Proof
end

