-- ==== Sys2Proof/Config.lean ====
section
/-! DEFINITION. What an implementation fixes and the spec leaves OPEN (00_scope.md rule R8), and the free values. Every
constant here that is `opaque` has no body: a proof can use only what its type says (DESIGN CHOICE, log entry 6). -/

namespace Sys2Proof

/-- The three interchangeable realisations of the round primitives (R3, R34). The value 3 of the 2-bit register is never
held, so there is no fourth constructor. -/
inductive Backend where
  | backendA
  | backendB
  | backendSW
  deriving DecidableEq, Repr, Inhabited

/-- `BACKEND`: the backend that reset latches (R8, R231; OPEN, decision D14). -/
opaque Config.backend : Backend

/-- `RC_TABLE`: the 15 round constants (R8, R35; OPEN, decision D15). -/
opaque Config.rcTable : Vector Block16 15

/-- `HASH_IV`: the initial hash state (R8, R36; OPEN, decision D16). -/
opaque Config.hashIv : Block32

/-- How many context slots there are beyond the first (R8; OPEN, decision D6). -/
opaque Config.slotsBeyondFirst : Fin 256

/-- `N_CTX`: the number of hash context slots, a natural number with `1 <= N_CTX <= 256` and nothing more known (R8). -/
def Config.nCtx : Nat := Config.slotsBeyondFirst.val + 1

/-- How far the payload limit lies above 64 bytes (R8; OPEN, decision D21). -/
opaque Config.payloadBeyond64 : Nat

/-- `MAX_PAYLOAD`: the largest payload the port carries, a natural number `>= 64` and nothing more known (R8, R74). -/
def Config.maxPayload : Nat := Config.payloadBeyond64 + 64

/-- FREE VALUE. What a working lane register holds once the command that used it is over (R44: "Their value at reset and
between commands is unspecified"; 93_implementation_defined.md U4: "any value"). The argument is the number of the draw. -/
opaque Config.freeLane : Nat → Block16

end Sys2Proof
end

