-- ==== Sys2Proof/Machine/Flags.lean ====
section
/-! DEFINITION. The engine has no flags and no condition codes (10_state.md rule R33). What stands here in their place is
every small code the spec gives a number: the response status, the lifecycle of a slot, the backend register. -/

namespace Sys2Proof.Machine

/-- The status of a response (R87); no other value is ever returned, so there is no fifth constructor. -/
inductive Status where
  | ok
  | invalidLength
  | invalidState
  | illegalCommand
  deriving DecidableEq, Repr

/-- The 8-bit status code (R86, R87). -/
def Status.code : Status → BitVec 8
  | .ok => 0x00
  | .invalidLength => 0x01
  | .invalidState => 0x02
  | .illegalCommand => 0x03

/-- `CTX[j].STATUS`, the lifecycle of a slot (R39, R170). `noContext` is the spec's `NONE`. -/
inductive Lifecycle where
  | noContext
  | fresh
  | accum
  | final
  deriving DecidableEq, Repr

/-- The 2-bit value of `CTX[j].STATUS` (R39). -/
def Lifecycle.code : Lifecycle → BitVec 2
  | .noContext => 0
  | .fresh => 1
  | .accum => 2
  | .final => 3

/-- The statuses in which HASH_UPDATE and HASH_FINAL are legal: neither `NONE` nor `FINAL` (R203). -/
def Lifecycle.live : Lifecycle → Bool
  | .noContext => false
  | .fresh => true
  | .accum => true
  | .final => false

/-- The 2-bit value of the `BACKEND` register (R34). -/
def backendCode : Backend → BitVec 2
  | .backendA => 0
  | .backendB => 1
  | .backendSW => 2

end Sys2Proof.Machine
end

