-- ==== Sys2Proof/Machine/State.lean ====
section
/-! DEFINITION. The state of the engine and its request port, as plain data (10_state.md), the reasons a step stops, and
the state after reset (70_reset_and_hazards.md rules R230 to R232). -/

namespace Sys2Proof.Machine

/-- Configuration and read-only stores (10_state.md section 3). No command writes any of them; the pure functions of the
spec read their arguments and these (R15). -/
structure Stores where
  /-- The `BACKEND` register, latched at reset (R34, R231). -/
  backend : Backend
  /-- `RC[0]` to `RC[14]` (R35). -/
  rc : Vector Block16 15
  /-- `HASH_IV` (R36). -/
  hashIv : Block32
  /-- `SBOX` (R37). -/
  sbox : Block 256
  deriving DecidableEq, Repr

/-- One hash context slot `CTX[j]` (R38). -/
structure Slot where
  /-- `STATUS` (R39). -/
  status : Lifecycle
  /-- `STATE`, the chaining value (R40). -/
  state : Block32
  /-- `BUF`, the significant bytes of the buffer (R41). -/
  buf : Bytes
  /-- `BUF_LEN`, the 5-bit count of those bytes (R41; DEDUCED, log entry 14). -/
  bufLen : BitVec 5
  /-- `TOTAL_LEN`, the 64-bit byte counter (R42). -/
  totalLen : BitVec 64
  deriving DecidableEq, Repr

/-- A request: a command word and a payload (R80). -/
structure Request where
  cmd : CommandWord
  payload : Bytes
  deriving DecidableEq, Repr

/-- A response: a status and result bytes (R86). -/
structure Response where
  status : Status
  result : Bytes
  deriving DecidableEq, Repr

/-- The engine and its port. -/
structure State where
  /-- Configuration and read-only stores. -/
  stores : Stores
  /-- `CTX[0]` to `CTX[N_CTX-1]`: the list's length is the engine's `N_CTX` (R38). -/
  slots : List Slot
  /-- The working lane registers `x[0]` to `x[3]` (R44). -/
  lanes : Vector Block16 4
  /-- The port, inbound (DEDUCED, log entry 7): the requests the host has sent and the engine has not answered, oldest first (R70). -/
  requests : List Request
  /-- The port, outbound: the responses emitted and not yet taken by the host, oldest first (R70). -/
  responses : List Response
  /-- The model's own field: how many free values have been drawn so far. -/
  draws : Nat
  deriving DecidableEq, Repr

/-- Why the machine stops with a fault: never. "No command can fail for a reason other than rules R201 to R203" (R206),
and those are responses, so the type is empty and no step answers a fault. Safe: there is nothing to raise. -/
inductive Fault where
  deriving DecidableEq, Repr

/-- Why a step is refused. -/
inductive Refusal where
  /-- Raised by `exec` for an instruction that has no meaning yet; no arm raises it. Safe: the machine stops. -/
  | notModelled (mnemonic : String)
  /-- Raised by `step` when the payload of the oldest request is longer than `MAX_PAYLOAD`: "the model refuses it and
  gives it no step" (R74). Safe: nothing is claimed about such a request. -/
  | payloadTooLong
  deriving DecidableEq, Repr

/-- What one step can answer. -/
abbrev Outcome := Host.Outcome State Fault Refusal

/-- A slot after reset. `STATUS = NONE` is the spec's (R230). DESIGN CHOICE (log entry 1): the other four fields, which
the spec leaves unspecified, are zero and empty. -/
def Slot.reset : Slot :=
  { status := .noContext
    state := Vector.replicate 32 0
    buf := []
    bufLen := 0
    totalLen := 0 }

/-- The stores after reset: the parameters of R8 and the AES S-box (R231, R232). -/
def Stores.reset : Stores :=
  { backend := Config.backend
    rc := Config.rcTable
    hashIv := Config.hashIv
    sbox := aesSBox }

/-- The machine right after reset (R230 to R232, R234): no request in progress, no response pending. DESIGN CHOICE (log
entry 1): the working lanes, unspecified by R230, are zero; `draws` is the model's own field and starts at 0. -/
def State.reset : State :=
  { stores := Stores.reset
    slots := List.replicate Config.nCtx Slot.reset
    lanes := Vector.replicate 4 (Vector.replicate 16 0)
    requests := []
    responses := []
    draws := 0 }

end Sys2Proof.Machine
end

