-- ==== Sys2Proof/Machine/Operands.lean ====
section
/-! DEFINITION. Operand forms: how bytes are grouped into lanes, words and blocks (20_memory.md rules R61 to R66) and the
bytewise XOR (R10). The engine reads every operand at a fixed offset of the payload. -/

namespace Sys2Proof.Machine

/-- Bytes `0` to `n-1` of a sequence as a block. Every caller passes a sequence of at least `n` bytes; for a shorter one,
which no reachable state produces, missing bytes read as 0 (DESIGN CHOICE, log entry 5). -/
def blockOfBytes (n : Nat) (s : Bytes) : Block n := Vector.ofFn fun i => s.getD i.val 0

/-- `PAYLOAD[off .. off+n)` (R10, R61). -/
def slice (n off : Nat) (s : Bytes) : Block n := blockOfBytes n (s.drop off)

/-- The bytewise XOR of two blocks of equal length (R10). -/
def xorBlock {n : Nat} (a b : Block n) : Block n := Vector.ofFn fun i => a[i.val] ^^^ b[i.val]

/-- `rep(v, n)` (R10). -/
def rep (v : Byte) (n : Nat) : Block n := Vector.replicate n v

/-- `ZERO16`, the all-zero lane (R10). -/
def zero16 : Block16 := rep 0x00 16

/-- The lane pair of a `Block32`: `xk = blk[16k .. 16k+16)` (R62). -/
def lanesOf32 (blk : Block32) : Vector Block16 2 :=
  Vector.ofFn fun k => Vector.ofFn fun i => blk[16 * k.val + i.val]

/-- The lane quadruple of a `Block64`: `xk = blk[16k .. 16k+16)` (R62). -/
def lanesOf64 (blk : Block64) : Vector Block16 4 :=
  Vector.ofFn fun k => Vector.ofFn fun i => blk[16 * k.val + i.val]

/-- `x0 || x1` (R62). -/
def concat2 (x : Vector Block16 2) : Block32 :=
  Vector.ofFn fun i => x[i.val / 16][i.val % 16]

/-- `x0 || x1 || x2 || x3` (R62). -/
def concat4 (x : Vector Block16 4) : Block64 :=
  Vector.ofFn fun i => x[i.val / 16][i.val % 16]

/-- `STATE || block`, the 64-byte input of a compression (R172). -/
def joinBlocks (a b : Block32) : Block64 :=
  Vector.ofFn fun i => if h : i.val < 32 then a[i.val] else b[i.val - 32]

/-- The 64-bit word `wk = blk[8k .. 8k+8)` of a `Block64` (R65). -/
def wordOf (blk : Block64) (k : Fin 8) : Block 8 := Vector.ofFn fun i => blk[8 * k.val + i.val]

/-- Four words in order, as 32 bytes (R64). -/
def concatWords (w : Vector (Block 8) 4) : Block32 :=
  Vector.ofFn fun i => w[i.val / 8][i.val % 8]

/-- `BE64(v)`: byte `k` is `(v >> (8*(7-k))) & 0xFF`, the most significant byte first (R13, R66). -/
def be64 (v : BitVec 64) : Block 8 :=
  Vector.ofFn fun k => (v >>> (8 * (7 - k.val))).setWidth 8

end Sys2Proof.Machine
end

