-- ==== Sys2Proof/Machine/Ops.lean ====
section
/-! DEFINITION. The named operations over the state: the request being served, the response that ends it, raising an
error, writing a slot, giving the working lanes back, and what the host does at the port. -/

namespace Sys2Proof.Machine

/-- `N_CTX` of this engine: how many slots it holds (R38). -/
def State.nCtx (s : State) : Nat := s.slots.length

/-- `PAYLOAD`: the payload of the request being served, the oldest on the port (R14, R61, R70). -/
def State.payload (s : State) : Bytes := (s.requests.head?.map Request.payload).getD []

/-- Between commands the working lane registers are not preserved and hold any value (R44, U4; DEDUCED, log entry 2): each
of the four holds a free value from now on. -/
def State.releaseLanes (s : State) : State :=
  { s with
    lanes := Vector.ofFn fun k => Config.freeLane (s.draws + k.val)
    draws := s.draws + 4 }

/-- A command ends, in success or in error: its request leaves the port, its one response is emitted after every earlier
one (R70, R86), and the working lanes are given up (R44). -/
def State.respond (s : State) (status : Status) (result : Bytes) : State :=
  { s.releaseLanes with
    requests := s.requests.tail
    responses := s.responses ++ [⟨status, result⟩] }

/-- `respond(OK, r)` (R14). -/
def respondOk (result : Bytes) (s : State) : Outcome := .next (s.respond .ok result)

/-- `raise E`: taking an error. It "ends the command with error status `E`, empty result, and no state written" (R14,
R200, R204). It saves nothing, changes no mode and transfers no control, so there is nothing to return from: "the next
request is taken as usual" (R208). -/
def raiseError (e : Status) (s : State) : Outcome := .next (s.respond e [])

/-- `CTX[j] <- c` (R14, R38). -/
def State.setSlot (s : State) (j : Nat) (c : Slot) : State := { s with slots := s.slots.set j c }

/-- The length check: `if len(PAYLOAD) != n: raise InvalidLength` (R202). -/
def requireLength (n : Nat) (s : State) (k : Outcome) : Outcome :=
  if s.payload.length = n then k else raiseError .invalidLength s

/-- The slot check: `if j >= N_CTX: raise IllegalCommand` (R83), then the command on the slot it names. -/
def withSlot (j : BitVec 8) (s : State) (k : Slot → Outcome) : Outcome :=
  match s.slots[j.toNat]? with
  | some c => k c
  | none => raiseError .illegalCommand s

/-- The state check: `if CTX[j].STATUS in {NONE, FINAL}: raise InvalidState` (R203). -/
def requireLive (c : Slot) (s : State) (k : Outcome) : Outcome :=
  if c.status.live then k else raiseError .invalidState s

/-- The host sends a request: it arrives after every earlier one (R70). -/
def State.send (s : State) (r : Request) : State := { s with requests := s.requests ++ [r] }

/-- The host takes the oldest response from the port (R70, R86). -/
def State.takeResponse (s : State) : Option (Response × State) :=
  match s.responses with
  | [] => none
  | r :: rs => some (r, { s with responses := rs })

/-- Reset asserted at any time (R230 to R233): every slot is without a context, `BACKEND` is latched from its parameter,
the read-only stores keep their contents, a request in progress has no response and none of its writes survive. The
fields R230 leaves unspecified take the values they have in `State.reset` (DESIGN CHOICE, log entry 1). Discarding every
waiting request is DEDUCED (log entry 9). -/
def State.assertReset (s : State) : State :=
  { stores := { s.stores with backend := Config.backend }
    slots := List.replicate s.nCtx Slot.reset
    lanes := State.reset.lanes
    requests := []
    responses := []
    draws := s.draws }

end Sys2Proof.Machine
end

