-- ==== Sys2Proof/Machine/RoundPrimitives.lean ====
section
/-! DEFINITION. The four AES steps on a lane, the round primitives, the three backends, and the commands ENC and ENC_LAST
(40_round_primitives.md rules R100 to R113). Lane byte `r + 4c` is the AES state cell at row `r`, column `c` (R63). -/

namespace Sys2Proof.Machine

/-- SubBytes: every byte is replaced by its S-box entry (R100). -/
def subBytes (sbox : Block 256) (s : Block16) : Block16 :=
  Vector.ofFn fun i => sbox[s[i.val].toNat]

/-- ShiftRows: row `r` is shifted left by `r`, `ShiftRows(s)[r + 4c] = s[r + 4*((c + r) mod 4)]` (R101). -/
def shiftRows (s : Block16) : Block16 :=
  Vector.ofFn fun i =>
    let r := i.val % 4
    let c := i.val / 4
    s[r + 4 * ((c + r) % 4)]

/-- Multiplication by `x` in GF(2^8) (R102). -/
def xtime (a : Byte) : Byte := (a <<< 1) ^^^ (if a &&& 0x80 ≠ 0 then 0x1B else 0x00)

/-- `mul2(a) = xtime(a)` (R102). -/
def mul2 (a : Byte) : Byte := xtime a

/-- `mul3(a) = xtime(a) ^ a` (R102). -/
def mul3 (a : Byte) : Byte := xtime a ^^^ a

/-- MixColumns: every column is multiplied by the AES matrix (R103). -/
def mixColumns (s : Block16) : Block16 :=
  Vector.ofFn fun i =>
    let c := i.val / 4
    let a0 := s[4 * c]
    let a1 := s[4 * c + 1]
    let a2 := s[4 * c + 2]
    let a3 := s[4 * c + 3]
    match i.val % 4 with
    | 0 => mul2 a0 ^^^ mul3 a1 ^^^ a2 ^^^ a3
    | 1 => a0 ^^^ mul2 a1 ^^^ mul3 a2 ^^^ a3
    | 2 => a0 ^^^ a1 ^^^ mul2 a2 ^^^ mul3 a3
    | _ => mul3 a0 ^^^ a1 ^^^ a2 ^^^ mul2 a3

/-- AddRoundKey: the bytewise XOR of two lanes (R104). -/
def addRoundKey (s k : Block16) : Block16 := xorBlock s k

/-- Backend A's native round with a mix step (R108). -/
def aRound (sbox : Block 256) (s k : Block16) : Block16 :=
  addRoundKey (mixColumns (shiftRows (subBytes sbox s))) k

/-- Backend A's native last round (R108). -/
def aLast (sbox : Block 256) (s k : Block16) : Block16 :=
  addRoundKey (shiftRows (subBytes sbox s)) k

/-- Backend B's encrypt round: AddRoundKey, then SubBytes, then ShiftRows (R109). -/
def bRound (sbox : Block 256) (s k : Block16) : Block16 :=
  shiftRows (subBytes sbox (xorBlock s k))

/-- Backend B's separate mix step (R109). -/
def bMix (s : Block16) : Block16 := mixColumns s

/-- `enc(state, key)`, the round with mixing, in the composition `BACKEND` selects (R34, R105, R108 to R110; DEDUCED, log
entry 13). -/
def enc (c : Stores) (state key : Block16) : Block16 :=
  match c.backend with
  | .backendA => aRound c.sbox state key
  | .backendB => xorBlock (bMix (bRound c.sbox state zero16)) key
  | .backendSW => addRoundKey (mixColumns (shiftRows (subBytes c.sbox state))) key

/-- `enc_last(state, key)`, the round without mixing, in the composition `BACKEND` selects (R34, R106, R108 to R110). -/
def encLast (c : Stores) (state key : Block16) : Block16 :=
  match c.backend with
  | .backendA => aLast c.sbox state key
  | .backendB => xorBlock (bRound c.sbox state zero16) key
  | .backendSW => addRoundKey (shiftRows (subBytes c.sbox state)) key

/-- ENC (R112): `state = PAYLOAD[0..16)`, `key = PAYLOAD[16..32)`. -/
def execEnc (s : State) : Outcome :=
  requireLength 32 s
    (respondOk (enc s.stores (slice 16 0 s.payload) (slice 16 16 s.payload)).toList s)

/-- ENC_LAST (R113): `state = PAYLOAD[0..16)`, `key = PAYLOAD[16..32)`. -/
def execEncLast (s : State) : Outcome :=
  requireLength 32 s
    (respondOk (encLast s.stores (slice 16 0 s.payload) (slice 16 16 s.payload)).toList s)

end Sys2Proof.Machine
end

