-- ==== Sys2Proof/Machine/Permutations.lean ====
section
/-! DEFINITION. Permutation-256 and Permutation-512 over the working lanes, and the commands PERM256 and PERM512
(41_permutations.md rules R130 to R140). -/

namespace Sys2Proof.Machine

/-- Round `i` of Permutation-256 (R131) on the pair `(a, b)` that rule R132 designates: `(x0, x1)` when `i` is even,
`(x1, x0)` when `i` is odd. Both lanes are read before either is written. -/
def round256 (c : Stores) (x : Vector Block16 2) (i : Fin 15) : Vector Block16 2 :=
  let a := x[i.val % 2]
  let b := x[(i.val + 1) % 2]
  (x.set ((i.val + 1) % 2) (enc c (enc c a c.rc[i.val]) b)).set (i.val % 2) (encLast c a zero16)

/-- The rounds of Permutation-256, `0` to `9` (R133). -/
def rounds256 : List (Fin 15) := [0, 1, 2, 3, 4, 5, 6, 7, 8, 9]

/-- `perm256(x0, x1)`: ten rounds; the output is the pair of lanes after round 9, in lane order (R133). -/
def perm256 (c : Stores) (x : Vector Block16 2) : Vector Block16 2 := rounds256.foldl (round256 c) x

/-- Permutation-256 as a function on `Block32` (R133). -/
def P256 (c : Stores) (blk : Block32) : Block32 := concat2 (perm256 c (lanesOf32 blk))

/-- Round `i` of Permutation-512 (R134) on the quadruple that rule R135 rotates: lane `r = i mod 4` comes first. All four
lanes are read before any is written. -/
def round512 (k : Stores) (x : Vector Block16 4) (i : Fin 15) : Vector Block16 4 :=
  let a := x[i.val % 4]
  let b := x[(i.val + 1) % 4]
  let c := x[(i.val + 2) % 4]
  let d := x[(i.val + 3) % 4]
  (((x.set ((i.val + 1) % 4) (enc k a b)).set
    ((i.val + 3) % 4) (enc k c d)).set
    (i.val % 4) (encLast k a zero16)).set
    ((i.val + 2) % 4) (enc k (encLast k c k.rc[i.val]) zero16)

/-- The rounds of Permutation-512, `0` to `14` (R137). -/
def rounds512 : List (Fin 15) := [0, 1, 2, 3, 4, 5, 6, 7, 8, 9, 10, 11, 12, 13, 14]

/-- The output reindexing of Permutation-512, `(x3, x0, x1, x2)` (R136). -/
def reindex512 (x : Vector Block16 4) : Vector Block16 4 := #v[x[3], x[0], x[1], x[2]]

/-- `perm512(x0, x1, x2, x3)`: fifteen rounds, then the reindexing (R137). -/
def perm512 (c : Stores) (x : Vector Block16 4) : Vector Block16 4 :=
  reindex512 (rounds512.foldl (round512 c) x)

/-- Permutation-512 as a function on `Block64` (R137). -/
def P512 (c : Stores) (blk : Block64) : Block64 := concat4 (perm512 c (lanesOf64 blk))

/-- PERM256 (R138). -/
def execPerm256 (s : State) : Outcome :=
  requireLength 32 s
    (respondOk (P256 s.stores (slice 32 0 s.payload)).toList s)

/-- PERM512 (R139). -/
def execPerm512 (s : State) : Outcome :=
  requireLength 64 s
    (respondOk (P512 s.stores (slice 64 0 s.payload)).toList s)

end Sys2Proof.Machine
end

