-- ==== Sys2Proof/Machine/Compressors.lean ====
section
/-! DEFINITION. The Davies–Meyer compressors and the commands DM256 and DM512 (42_compressors.md rules R150 to R154). -/

namespace Sys2Proof.Machine

/-- `compress256(blk) = P256(blk) ^ blk` (R150). -/
def compress256 (c : Stores) (blk : Block32) : Block32 := xorBlock (P256 c blk) blk

/-- The 64-byte feed-forward value `Y = P512(blk) ^ blk`: the reindexed output against the original lanes, by position
(R151). -/
def feedForward512 (c : Stores) (blk : Block64) : Block64 := xorBlock (P512 c blk) blk

/-- The truncation `w1 || w3 || w4 || w6` (R152). -/
def truncate512 (y : Block64) : Block32 := concatWords #v[wordOf y 1, wordOf y 3, wordOf y 4, wordOf y 6]

/-- `compress512(blk)`: the feed-forward value, truncated (R151, R152). -/
def compress512 (c : Stores) (blk : Block64) : Block32 := truncate512 (feedForward512 c blk)

/-- DM256 (R153). -/
def execDm256 (s : State) : Outcome :=
  requireLength 32 s
    (respondOk (compress256 s.stores (slice 32 0 s.payload)).toList s)

/-- DM512 (R154). -/
def execDm512 (s : State) : Outcome :=
  requireLength 64 s
    (respondOk (compress512 s.stores (slice 64 0 s.payload)).toList s)

end Sys2Proof.Machine
end

