-- ==== Sys2Proof/Machine/StreamingHash.lean ====
section
/-! DEFINITION. The Merkle–Damgård streaming hash: the context functions and the commands HASH_INIT, HASH_UPDATE,
HASH_FINAL and HASH (43_streaming_hash.md rules R170 to R183). -/

namespace Sys2Proof.Machine

/-- A context value: the fields of a slot without `STATUS` (43_streaming_hash.md section 1). -/
structure Context where
  state : Block32
  buf : Bytes
  totalLen : BitVec 64
  deriving DecidableEq, Repr

/-- The context a slot holds. -/
def Slot.context (c : Slot) : Context := ⟨c.state, c.buf, c.totalLen⟩

/-- `md_init()` (R171). -/
def mdInit (c : Stores) : Context := ⟨c.hashIv, [], 0⟩

/-- One step of the chain: `compress512(STATE || block)`, the block being the first 32 bytes of `bytes` (R172; in
`md_final` too, decision D29). -/
def chain (c : Stores) (state : Block32) (bytes : Bytes) : Block32 :=
  compress512 c (joinBlocks state (blockOfBytes 32 bytes))

/-- The loop of `md_update`: `k` whole blocks straight from `data`, then the state and the bytes that are left (R172). -/
def absorb (c : Stores) : Nat → Block32 → Bytes → Block32 × Bytes
  | 0, state, data => (state, data)
  | k + 1, state, data => absorb c k (chain c state (data.take 32)) (data.drop 32)

/-- `md_update(c, data)` (R172). The loop runs while at least 32 bytes remain, so `(n - p) / 32` times. -/
def mdUpdate (c : Stores) (ctx : Context) (data : Bytes) : Context :=
  let total := ctx.totalLen + BitVec.ofNat 64 data.length
  if ctx.buf.length + data.length < 32 then
    { ctx with buf := ctx.buf ++ data, totalLen := total }
  else
    let take := 32 - ctx.buf.length
    let filled := chain c ctx.state (ctx.buf ++ data.take take)
    let rest := data.drop take
    let done := absorb c (rest.length / 32) filled rest
    { state := done.1, buf := done.2, totalLen := total }

/-- `LEN8 = BE64((TOTAL_LEN * 8) mod 2^64)` (R173). -/
def len8 (totalLen : BitVec 64) : Block 8 := be64 (totalLen * 8)

/-- The block of a one-block finalization, `BUF || 0x80 || zeros || LEN8` (R174, `bl < 24`). -/
def padOne (ctx : Context) : Bytes :=
  ctx.buf ++ [0x80] ++ List.replicate (23 - ctx.buf.length) 0x00 ++ (len8 ctx.totalLen).toList

/-- The first block of a two-block finalization, `BUF || 0x80 || zeros` (R174, `24 <= bl`). -/
def padFirst (ctx : Context) : Bytes :=
  ctx.buf ++ [0x80] ++ List.replicate (31 - ctx.buf.length) 0x00

/-- The second block of a two-block finalization, 24 zeros and `LEN8` (R174). -/
def padSecond (ctx : Context) : Bytes :=
  List.replicate 24 0x00 ++ (len8 ctx.totalLen).toList

/-- `md_final(c)`: the context afterwards and the digest (R174). -/
def mdFinal (c : Stores) (ctx : Context) : Context × Block32 :=
  if ctx.buf.length < 24 then
    (ctx, chain c ctx.state (padOne ctx))
  else
    let state := chain c ctx.state (padFirst ctx)
    ({ ctx with state := state }, chain c state (padSecond ctx))

/-- The blocks `md_final` compresses, in order (R174, R175). -/
def finalBlocks (ctx : Context) : List Bytes :=
  if ctx.buf.length < 24 then [padOne ctx] else [padFirst ctx, padSecond ctx]

/-- `md_hash(data)`, the one-shot hash (R176). -/
def mdHash (c : Stores) (data : Bytes) : Block32 := (mdFinal c (mdUpdate c (mdInit c) data)).2

/-- A slot that holds context `ctx` with status `status`; `BUF_LEN` is the number of its buffer bytes (R41). -/
def Slot.ofContext (status : Lifecycle) (ctx : Context) : Slot :=
  { status := status
    state := ctx.state
    buf := ctx.buf
    bufLen := BitVec.ofNat 5 ctx.buf.length
    totalLen := ctx.totalLen }

/-- HASH_INIT on slot `j` (R177): every field of the slot is written; legal from every status. -/
def execHashInit (j : BitVec 8) (s : State) : Outcome :=
  withSlot j s fun _ =>
    requireLength 0 s
      (respondOk [] (s.setSlot j.toNat (Slot.ofContext .fresh (mdInit s.stores))))

/-- HASH_UPDATE on slot `j` (R178): any payload length; the slot ends in `ACCUM`. -/
def execHashUpdate (j : BitVec 8) (s : State) : Outcome :=
  withSlot j s fun c =>
    requireLive c s
      (respondOk []
        (s.setSlot j.toNat (Slot.ofContext .accum (mdUpdate s.stores c.context s.payload))))

/-- HASH_FINAL on slot `j` (R179): `STATE` and `STATUS` are written; `BUF`, `BUF_LEN` and `TOTAL_LEN` are not. The length
is checked before the slot's status (R205). -/
def execHashFinal (j : BitVec 8) (s : State) : Outcome :=
  withSlot j s fun c =>
    requireLength 0 s
      (requireLive c s
        (let done := mdFinal s.stores c.context
         respondOk done.2.toList
          (s.setSlot j.toNat { c with state := done.1.state, status := .final })))

/-- HASH (R180): the digest of the payload; the context is private and no slot is touched. -/
def execHash (s : State) : Outcome :=
  respondOk (mdHash s.stores s.payload).toList s

end Sys2Proof.Machine
end

