-- ==== Sys2Proof/Syntax.lean ====
section
/-! DEFINITION. The commands of the opcode map (30_encoding.md rule R82), one constructor per row of
spec/opcode_table.json. The byte operands travel in the request's payload (R31, R85), so a command word carries at most
a slot number. -/

namespace Sys2Proof

/-- A command. The three hash-context commands name a slot in their 8-bit `CTX` field (R83). -/
inductive Instr where
  | enc
  | encLast
  | perm256
  | perm512
  | dm256
  | dm512
  | hashInit (ctx : BitVec 8)
  | hashUpdate (ctx : BitVec 8)
  | hashFinal (ctx : BitVec 8)
  | hash
  deriving DecidableEq, Repr

/-- Why a command word is illegal: the four cases of rule R88. -/
inductive DecodeError where
  /-- `OPC` is not one of the ten values of rule R82. -/
  | undefinedOpcode
  /-- `RSVD != 0` (R84). -/
  | reservedBitsSet
  /-- `CTX != 0` on an opcode that takes no slot (R83). -/
  | contextNotTaken
  /-- `CTX >= N_CTX` on a hash-context opcode (R83). -/
  | contextOutOfRange
  deriving DecidableEq, Repr

end Sys2Proof
end

