-- ==== Sys2Proof/Machine/Dispatch.lean ====
section
/-! DEFINITION. One arm per command of the opcode map (30_encoding.md rule R82). -/

namespace Sys2Proof.Machine

def exec (i : Instr) (s : State) : Host.Outcome State Fault Refusal :=
  match i with
  -- round primitives
  | .enc => Sys2Proof.Machine.execEnc s
  | .encLast => Sys2Proof.Machine.execEncLast s
  -- permutations
  | .perm256 => Sys2Proof.Machine.execPerm256 s
  | .perm512 => Sys2Proof.Machine.execPerm512 s
  -- compressors
  | .dm256 => Sys2Proof.Machine.execDm256 s
  | .dm512 => Sys2Proof.Machine.execDm512 s
  -- streaming hash
  | .hashInit j => Sys2Proof.Machine.execHashInit j s
  | .hashUpdate j => Sys2Proof.Machine.execHashUpdate j s
  | .hashFinal j => Sys2Proof.Machine.execHashFinal j s
  | .hash => Sys2Proof.Machine.execHash s

end Sys2Proof.Machine
end

