-- ==== Sys2Proof/WellFormed.lean ====
section
/-! DEFINITION. When a command is one the engine with `nCtx` slots has (30_encoding.md rule R83). -/

namespace Sys2Proof

/-- The slot a command names exists; every other command is well formed (R83). -/
def Instr.wellFormed (nCtx : Nat) : Instr → Bool
  | .enc => true
  | .encLast => true
  | .perm256 => true
  | .perm512 => true
  | .dm256 => true
  | .dm512 => true
  | .hashInit ctx => decide (ctx.toNat < nCtx)
  | .hashUpdate ctx => decide (ctx.toNat < nCtx)
  | .hashFinal ctx => decide (ctx.toNat < nCtx)
  | .hash => true

end Sys2Proof
end

