-- ==== Sys2Proof/Decode.lean ====
section
/-! DEFINITION. The decoder of 30_encoding.md rules R81 to R89, total on every 32-bit word, then the encoder written from
the same table, then the host's view of the decoder. -/

namespace Sys2Proof

/-- `OPC = CMD[7:0]` (R81). -/
def opcField (w : CommandWord) : BitVec 8 := w.extractLsb' 0 8

/-- `CTX = CMD[15:8]` (R81). -/
def ctxField (w : CommandWord) : BitVec 8 := w.extractLsb' 8 8

/-- `RSVD = CMD[31:16]` (R81). -/
def rsvdField (w : CommandWord) : BitVec 16 := w.extractLsb' 16 16

/-- An opcode that takes no slot: `CTX` must be 0 (R83). -/
def decodePlain (w : CommandWord) (i : Instr) : Except DecodeError Instr :=
  if ctxField w = 0 then .ok i else .error .contextNotTaken

/-- A hash-context opcode: `CTX` must name one of the `nCtx` slots (R83). -/
def decodeSlot (nCtx : Nat) (w : CommandWord) (mk : BitVec 8 → Instr) : Except DecodeError Instr :=
  if (ctxField w).toNat < nCtx then .ok (mk (ctxField w)) else .error .contextOutOfRange

/-- The decoding procedure of rule R89 over the opcode map of rule R82. Every error here is the one response
`IllegalCommand` (R88), so the order of the checks shows only in the error's name (DESIGN CHOICE, log entry 10). -/
def decode (nCtx : Nat) (w : CommandWord) : Except DecodeError Instr :=
  if rsvdField w ≠ 0 then .error .reservedBitsSet
  else
    match (opcField w).toNat with
    | 0x01 => decodePlain w .enc
    | 0x02 => decodePlain w .encLast
    | 0x10 => decodePlain w .perm256
    | 0x11 => decodePlain w .perm512
    | 0x20 => decodePlain w .dm256
    | 0x21 => decodePlain w .dm512
    | 0x30 => decodeSlot nCtx w .hashInit
    | 0x31 => decodeSlot nCtx w .hashUpdate
    | 0x32 => decodeSlot nCtx w .hashFinal
    | 0x33 => decodePlain w .hash
    | _ => .error .undefinedOpcode

/-- The `OPC` value of a command (R82). -/
def Instr.opcode : Instr → BitVec 8
  | .enc => 0x01
  | .encLast => 0x02
  | .perm256 => 0x10
  | .perm512 => 0x11
  | .dm256 => 0x20
  | .dm512 => 0x21
  | .hashInit _ => 0x30
  | .hashUpdate _ => 0x31
  | .hashFinal _ => 0x32
  | .hash => 0x33

/-- The `CTX` value of a command: the slot it names, or 0 (R83). -/
def Instr.ctx : Instr → BitVec 8
  | .enc => 0
  | .encLast => 0
  | .perm256 => 0
  | .perm512 => 0
  | .dm256 => 0
  | .dm512 => 0
  | .hashInit j => j
  | .hashUpdate j => j
  | .hashFinal j => j
  | .hash => 0

/-- The command word of a command: `OPC | (CTX << 8)`, `RSVD = 0` (R81, R84, R90). -/
def encode (i : Instr) : CommandWord :=
  i.opcode.setWidth 32 ||| (i.ctx.setWidth 32 <<< 8)

/-- The one payload length a command accepts, or `none` where rule R85 says "any". -/
def Instr.payloadLength : Instr → Option Nat
  | .enc => some 32
  | .encLast => some 32
  | .perm256 => some 32
  | .perm512 => some 64
  | .dm256 => some 32
  | .dm512 => some 64
  | .hashInit _ => some 0
  | .hashUpdate _ => none
  | .hashFinal _ => some 0
  | .hash => none

/-- The length of a command's result on status `OK` (R85). -/
def Instr.resultLength : Instr → Nat
  | .enc => 16
  | .encLast => 16
  | .perm256 => 32
  | .perm512 => 64
  | .dm256 => 32
  | .dm512 => 32
  | .hashInit _ => 0
  | .hashUpdate _ => 0
  | .hashFinal _ => 32
  | .hash => 32

/-- The command word whose table bits are `w`, the bits above `nbits` being 0. A command word has 32 bits (R80). -/
def tableWord (nbits w : Nat) : CommandWord := BitVec.ofNat 32 (w % 2 ^ nbits)

/-- What the decoder reads from the command word numbered as spec/opcode_table.json numbers it; "a decoder always reads
exactly 32 bits of command word" (R80), so a longer row is none. -/
def decodeTableWord (nbits w : Nat) : Option Instr :=
  if nbits ≤ 32 then (decode Config.nCtx (tableWord nbits w)).toOption else none

end Sys2Proof
end

