-- ==== Sys2Proof/Machine/Port.lean ====
section
/-! DEFINITION. Taking a request from the port: the limit on its payload, then the decoder (20_memory.md rules R70, R74;
30_encoding.md rules R88, R89). -/

namespace Sys2Proof.Machine

/-- What the port offers the engine. -/
inductive Fetched where
  /-- No request waits. -/
  | idle
  /-- The oldest request's payload is longer than `MAX_PAYLOAD` (R74). -/
  | tooLong
  /-- The oldest request's command word is illegal (R88). -/
  | illegal
  /-- The oldest request is the command `i`. -/
  | command (i : Instr)
  deriving DecidableEq, Repr

/-- The oldest request, checked and decoded. Requests are taken in the order the host sent them (R70).
Checking the limit before the word is DEDUCED (log entry 8). -/
def State.fetch (s : State) : Fetched :=
  match s.requests with
  | [] => .idle
  | r :: _ =>
    if Config.maxPayload < r.payload.length then .tooLong
    else
      match decode s.nCtx r.cmd with
      | .ok i => .command i
      | .error _ => .illegal

/-- The request for a command word of spec/opcode_table.json: the word, and a payload of zeros of the length the command
takes (R85), empty where any length will do or the word is illegal. -/
def tableRequest (nbits w : Nat) : Request :=
  { cmd := tableWord nbits w
    payload := List.replicate (((decodeTableWord nbits w).bind Instr.payloadLength).getD 0) 0x00 }

/-- The state with request `r` as the next one the engine takes. -/
def State.placeRequest (s : State) (r : Request) : State := { s with requests := r :: s.requests }

end Sys2Proof.Machine
end

