-- ==== Sys2Proof/Machine/Step.lean ====
section
/-! DEFINITION. One step: one request is served whole (20_memory.md rule R69), or the engine waits for one. -/

namespace Sys2Proof.Machine

/-- One step of the engine. With no request it waits: "After reset the engine waits for the first request on its port"
(R234), which changes nothing but the working lanes (DEDUCED, log entry 4). An over-long request is refused (R74). An illegal word raises `IllegalCommand` (R88). -/
def step (s : State) : Host.Outcome State Fault Refusal :=
  match s.fetch with
  | .idle => .next s.releaseLanes
  | .tooLong => .refused .payloadTooLong
  | .illegal => raiseError .illegalCommand s
  | .command i => exec i s

/-- The state whose next step takes the command word `w`, numbered as spec/opcode_table.json numbers it. The engine
fetches no instructions (R32): the word stands in the oldest request of the port (DEDUCED, log entry 3). -/
def State.withFetchWord (s : State) (nbits w : Nat) : State := s.placeRequest (tableRequest nbits w)

end Sys2Proof.Machine
end

