-- ==== Sys2Proof/Machine/Assembler.lean ====
section
/-! DEFINITION. The spec's textual form of requests (30_encoding.md rules R90, R91 and R93): statements, the requests they
spell, and the reading of a line of text. It is outside the engine; the engine sees only the requests. -/

namespace Sys2Proof.Machine

/-- A statement of rule R90, `.raw` of rule R93, or a pseudo-instruction of rule R91. -/
inductive Stmt where
  | enc (state key : Bytes)
  | encLast (state key : Bytes)
  | perm256 (blk : Bytes)
  | perm512 (blk : Bytes)
  | dm256 (blk : Bytes)
  | dm512 (blk : Bytes)
  | hashInit (j : Nat)
  | hashUpdate (j : Nat) (data : Bytes)
  | hashFinal (j : Nat)
  | hash (data : Bytes)
  | raw (cmd : CommandWord) (payload : Bytes)
  | digest (j : Nat) (data : Bytes)
  | hashUpdateLong (j : Nat) (data : Bytes)
  deriving DecidableEq, Repr

/-- A statement with operands of fixed lengths spells one request; a wrong length is refused (R93). -/
def spell (ok : Bool) (i : Instr) (payload : Bytes) : Option (List Request) :=
  if ok then some [⟨encode i, payload⟩] else none

/-- `data[0..m)`, `data[m..2m)`, ..., ending with the remainder, in at most `fuel` pieces (R91). -/
def pieces (m : Nat) : Nat → Bytes → List Bytes
  | 0, _ => []
  | fuel + 1, data => if data.isEmpty then [] else data.take m :: pieces m fuel (data.drop m)

/-- The HASH_UPDATE requests of a pseudo-instruction, one a piece (R91). -/
def updateRequests (j : Nat) (ps : List Bytes) : List Request :=
  ps.map fun p => ⟨encode (.hashUpdate (BitVec.ofNat 8 j)), p⟩

/-- The requests a statement spells, in order; `none` where the assembler refuses it (R90, R91, R93; DEDUCED, log entry 12). The length limit
of `hash.update.long` is the engine's `MAX_PAYLOAD`. -/
def Stmt.assemble : Stmt → Option (List Request)
  | .enc st key => spell (st.length == 16 && key.length == 16) .enc (st ++ key)
  | .encLast st key => spell (st.length == 16 && key.length == 16) .encLast (st ++ key)
  | .perm256 blk => spell (blk.length == 32) .perm256 blk
  | .perm512 blk => spell (blk.length == 64) .perm512 blk
  | .dm256 blk => spell (blk.length == 32) .dm256 blk
  | .dm512 blk => spell (blk.length == 64) .dm512 blk
  | .hashInit j => spell (j < 256) (.hashInit (BitVec.ofNat 8 j)) []
  | .hashUpdate j data => spell (j < 256) (.hashUpdate (BitVec.ofNat 8 j)) data
  | .hashFinal j => spell (j < 256) (.hashFinal (BitVec.ofNat 8 j)) []
  | .hash data => spell true .hash data
  | .raw cmd payload => some [⟨cmd, payload⟩]
  | .digest j data =>
    if j < 256 then
      some ([⟨encode (.hashInit (BitVec.ofNat 8 j)), []⟩] ++ updateRequests j [data] ++
        [⟨encode (.hashFinal (BitVec.ofNat 8 j)), []⟩])
    else none
  | .hashUpdateLong j data =>
    if j < 256 ∧ Config.maxPayload < data.length then
      some (updateRequests j (pieces Config.maxPayload data.length data))
    else none

/-- The value of a hexadecimal digit; the source text's digits are lowercase (R90). -/
def hexDigit (ch : Char) : Option Nat :=
  if '0'.toNat ≤ ch.toNat ∧ ch.toNat ≤ '9'.toNat then some (ch.toNat - '0'.toNat)
  else if 'a'.toNat ≤ ch.toNat ∧ ch.toNat ≤ 'f'.toNat then some (ch.toNat - 'a'.toNat + 10)
  else none

/-- Two hexadecimal digits a byte, byte 0 first (R90). -/
def hexBytes : List Char → Option Bytes
  | [] => some []
  | [_] => none
  | hi :: lo :: rest => do
    let h ← hexDigit hi
    let l ← hexDigit lo
    let bs ← hexBytes rest
    some (BitVec.ofNat 8 (16 * h + l) :: bs)

/-- A number written in base `base`, most significant digit first. -/
def readNumber (base : Nat) (digit : Char → Option Nat) : List Char → Option Nat
  | [] => none
  | ch :: cs =>
    (ch :: cs).foldl (fun acc c => do
      let n ← acc
      let d ← digit c
      if d < base then some (base * n + d) else none) (some 0)

/-- An operand: a byte sequence `x"<hex>"`, a slot `c<j>`, or the command word `0x<8 hex digits>` of `.raw` (R90, R93). -/
inductive Operand where
  | bytes (s : Bytes)
  | slot (j : Nat)
  | word (cmd : CommandWord)
  deriving DecidableEq, Repr

/-- Reads one operand (R90, R93). -/
def readOperand : List Char → Option Operand
  | 'x' :: '"' :: cs =>
    if cs.getLast? = some '"' then (hexBytes cs.dropLast).map .bytes else none
  | 'c' :: cs => (readNumber 10 hexDigit cs).map .slot
  | '0' :: 'x' :: cs =>
    if cs.length = 8 then (readNumber 16 hexDigit cs).map fun n => .word (BitVec.ofNat 32 n) else none
  | _ => none

/-- A text without the spaces around it. -/
def trimSpaces (cs : List Char) : List Char :=
  ((cs.dropWhile (· == ' ')).reverse.dropWhile (· == ' ')).reverse

/-- A text cut at its commas. -/
def splitCommas : List Char → List (List Char)
  | [] => [[]]
  | ch :: cs =>
    match splitCommas cs with
    | [] => [[]]
    | piece :: more => if ch = ',' then [] :: piece :: more else (ch :: piece) :: more

/-- The operands after the mnemonic, separated by commas (R90). -/
def readOperands (cs : List Char) : Option (List Operand) :=
  if (trimSpaces cs).isEmpty then some []
  else (splitCommas cs).mapM fun piece => readOperand (trimSpaces piece)

/-- The statement of a mnemonic and its operands; `none` where no form of rules R90, R91 and R93 has that shape. -/
def statementOf (mnemonic : String) (ops : List Operand) : Option Stmt :=
  match ops with
  | [.bytes a, .bytes b] =>
    if mnemonic = "enc" then some (.enc a b)
    else if mnemonic = "enc.last" then some (.encLast a b)
    else none
  | [.bytes a] =>
    if mnemonic = "perm256" then some (.perm256 a)
    else if mnemonic = "perm512" then some (.perm512 a)
    else if mnemonic = "dm256" then some (.dm256 a)
    else if mnemonic = "dm512" then some (.dm512 a)
    else if mnemonic = "hash" then some (.hash a)
    else none
  | [.slot j] =>
    if mnemonic = "hash.init" then some (.hashInit j)
    else if mnemonic = "hash.final" then some (.hashFinal j)
    else none
  | [.slot j, .bytes a] =>
    if mnemonic = "hash.update" then some (.hashUpdate j a)
    else if mnemonic = "digest" then some (.digest j a)
    else if mnemonic = "hash.update.long" then some (.hashUpdateLong j a)
    else none
  | [.word w, .bytes a] => if mnemonic = ".raw" then some (.raw w a) else none
  | _ => none

/-- Reads a line: a lowercase mnemonic, then the operands (R90). -/
def readStatement (line : List Char) : Option Stmt := do
  let text := trimSpaces line
  let ops ← readOperands (text.dropWhile (· != ' '))
  statementOf (String.ofList (text.takeWhile (· != ' '))) ops

end Sys2Proof.Machine
end

