-- ==== Sys2Proof/Machine/GaloisField.lean ====
section
/-! DEFINITION. The field GF(2^8) of 00_scope.md rule R12 and the second description of the S-box that 40_round_primitives.md
rule R100 gives. The engine computes with tables and `xtime`; these definitions are what claims hold them against. -/

namespace Sys2Proof.Machine

/-- The product of two bytes as polynomials over GF(2), before reduction: bit `i` of the number is the coefficient of
`x^i`, the degree at most 14 (R12). -/
def polyMul (a b : Byte) : Nat :=
  (List.range 8).foldl (fun p i => if b.toNat.testBit i then p ^^^ (a.toNat <<< i) else p) 0

/-- A polynomial of degree at most 14 reduced modulo `0x11B`, from its highest term down (R12). -/
def polyReduce (p : Nat) : Byte :=
  BitVec.ofNat 8
    ([6, 5, 4, 3, 2, 1, 0].foldl (fun q k => if q.testBit (8 + k) then q ^^^ (0x11B <<< k) else q) p)

/-- Multiplication in GF(2^8) (R12). -/
def gfMul (a b : Byte) : Byte := polyReduce (polyMul a b)

/-- `a^2` in GF(2^8). -/
def gfSquare (a : Byte) : Byte := gfMul a a

/-- `inv(a)`: the multiplicative inverse, `inv(0) = 0` (R100), as `a^254 = a^2 * a^4 * ... * a^128`. -/
def gfInv (a : Byte) : Byte :=
  let a2 := gfSquare a
  let a4 := gfSquare a2
  let a8 := gfSquare a4
  let a16 := gfSquare a8
  let a32 := gfSquare a16
  let a64 := gfSquare a32
  let a128 := gfSquare a64
  gfMul a2 (gfMul a4 (gfMul a8 (gfMul a16 (gfMul a32 (gfMul a64 a128)))))

/-- The affine map `A(b) = b ^ rotl8(b,1) ^ rotl8(b,2) ^ rotl8(b,3) ^ rotl8(b,4)` (R100). -/
def sboxAffine (b : Byte) : Byte :=
  b ^^^ b.rotateLeft 1 ^^^ b.rotateLeft 2 ^^^ b.rotateLeft 3 ^^^ b.rotateLeft 4

/-- The S-box by its algebraic definition, `SBOX[a] = A(inv(a)) ^ 0x63` (R100). -/
def algebraicSBox (a : Byte) : Byte := sboxAffine (gfInv a) ^^^ 0x63

/-- The MixColumns matrix of R103, row `r`, column `k`: 2 on the diagonal, 3 one place to its right (cyclically), and 1
everywhere else. -/
def mixEntry (r k : Fin 4) : Byte := if k = r then 2 else if k = r + 1 then 3 else 1

end Sys2Proof.Machine
end

