-- ==== Sys2Proof/Safety.lean ====
section
/-! DEFINITION. What a sound state and a safe run are, and the other terms the claims are stated in. None of them is used
by the machine. -/

namespace Sys2Proof.Machine

/-- A sound slot: `BUF_LEN = len(BUF)` always (R41); a slot that holds a context has absorbed whole blocks but for its
buffer, so `len(BUF)` is `TOTAL_LEN mod 32` (R171, R172); a `FRESH` slot is just initialised (R171, R177). -/
structure Slot.Sound (c : Stores) (slot : Slot) : Prop where
  bufLen_eq : slot.bufLen.toNat = slot.buf.length
  buf_eq_total : slot.status ≠ .noContext → slot.buf.length = slot.totalLen.toNat % 32
  fresh_eq : slot.status = .fresh → slot.context = mdInit c

/-- A sound state: between 1 and 256 slots (R8, R38), every one sound. -/
structure State.Sound (s : State) : Prop where
  one_le_nCtx : 1 ≤ s.nCtx
  nCtx_le : s.nCtx ≤ 256
  slots : ∀ slot ∈ s.slots, slot.Sound s.stores

/-- A safe state: every waiting request is within the port's limit, so no step is refused (R74). -/
def State.Safe (s : State) : Prop := ∀ r ∈ s.requests, r.payload.length ≤ Config.maxPayload

/-- An outcome with its next state changed by `f`. -/
def mapNext (f : State → State) : Outcome → Outcome
  | .next t => .next (f t)
  | .fault r => .fault r
  | .refused r => .refused r

/-- The same machine with another backend latched. -/
def State.withBackend (s : State) (b : Backend) : State := { s with stores := { s.stores with backend := b } }

/-- The same machine with another table of round constants. -/
def State.withConstants (s : State) (rc : Vector Block16 15) : State := { s with stores := { s.stores with rc := rc } }

/-- The slot a command uses is in a status that rejects the command: HASH_UPDATE or HASH_FINAL on `NONE` or `FINAL`
(R203). -/
def State.rejects (s : State) : Instr → Bool
  | .hashUpdate j => !((s.slots[j.toNat]?.map fun c => c.status.live).getD false)
  | .hashFinal j => !((s.slots[j.toNat]?.map fun c => c.status.live).getD false)
  | .enc => false
  | .encLast => false
  | .perm256 => false
  | .perm512 => false
  | .dm256 => false
  | .dm512 => false
  | .hashInit _ => false
  | .hash => false

/-- The status the rules give a request: the first of the errors that apply, else `OK` (R205, R206). -/
def State.dueStatus (s : State) (r : Request) : Status :=
  match decode s.nCtx r.cmd with
  | .error _ => .illegalCommand
  | .ok i =>
    if i.payloadLength.any (fun n => r.payload.length != n) then .invalidLength
    else if s.rejects i then .invalidState
    else .ok

/-- The command word is illegal by the four cases of rule R88. -/
def illegalWord (nCtx : Nat) (w : CommandWord) : Prop :=
  let plain := [0x01, 0x02, 0x10, 0x11, 0x20, 0x21, 0x33]
  let slot := [0x30, 0x31, 0x32]
  (opcField w).toNat ∉ plain ++ slot ∨
  rsvdField w ≠ 0 ∨
  ((opcField w).toNat ∈ plain ∧ ctxField w ≠ 0) ∨
  ((opcField w).toNat ∈ slot ∧ nCtx ≤ (ctxField w).toNat)

/-- The chaining value after the first `k` 32-byte blocks `data[32m..32m+32)`, in order (R181). -/
def chainBlocks (c : Stores) (k : Nat) (state : Block32) (data : Bytes) : Block32 :=
  (List.range k).foldl (fun st m => compress512 c (joinBlocks st (slice 32 (32 * m) data))) state

/-- A message with the padding of the streaming hash: `0x80`, zeros up to 24 bytes into a block, the bit length in 64 bits
(R173, R174). -/
def padMessage (data : Bytes) : Bytes :=
  data ++ [0x80] ++ List.replicate ((55 - data.length % 32) % 32) 0x00 ++
    (be64 (BitVec.ofNat 64 (8 * data.length))).toList

/-- The requests of a streaming hash of the chunks `ds` in slot `j`: init, one update a chunk, final. -/
def streamRequests (j : BitVec 8) (ds : List Bytes) : List Request :=
  [⟨encode (.hashInit j), []⟩] ++ ds.map (fun d => ⟨encode (.hashUpdate j), d⟩) ++ [⟨encode (.hashFinal j), []⟩]

end Sys2Proof.Machine
end

