-- ==== Sys2Proof/Certificates/Slice0/Obligations.lean ====
section
/-! DEFINITION. The statements for the provers, each with the rule of spec/ it formalises. -/

open Sys2Proof Sys2Proof.Machine

/-! ## Encoding (30_encoding.md) -/

/-- Every well-formed command decodes from its command word, whatever its slot and however many slots there are. -/
def Obligations.DecodeOfEncodeIsTheCommand : Prop :=
  ∀ (n : Nat) (i : Instr), i.wellFormed n = true → decode n (encode i) = .ok i

/-- A word that decodes is the word of the command it decodes to, and that command is well formed: one legal word a
command. -/
def Obligations.EncodeOfDecodeIsTheWord : Prop :=
  ∀ (n : Nat) (w : CommandWord) (i : Instr), decode n w = .ok i → i.wellFormed n = true ∧ encode i = w

/-- R88: the four cases, and only they, make a word illegal, and an illegal word raises `IllegalCommand` whatever its
payload and whatever the state, and writes no slot and no store. R84: in particular every word with a reserved bit set. -/
def Obligations.IllegalWordsRaiseIllegalCommand : Prop :=
  (∀ (n : Nat) (w : CommandWord), (∃ e, decode n w = .error e) ↔ illegalWord n w) ∧
  (∀ (n : Nat) (w : CommandWord), rsvdField w ≠ 0 → illegalWord n w) ∧
  ∀ (s : State) (r : Request) (rs : List Request), s.requests = r :: rs → r.payload.length ≤ Config.maxPayload →
    illegalWord s.nCtx r.cmd →
    ∃ t, step s = .next t ∧ t.slots = s.slots ∧ t.stores = s.stores ∧ t.requests = rs ∧
      t.responses = s.responses ++ [⟨.illegalCommand, []⟩]

/-- R89, which the spec marks derived from R82 to R84: the decoder dispatches on `OPC` with the slot `CTX`; an opcode that takes no slot has one legal word, a
hash-context opcode `N_CTX`, and so exactly `7 + 3 * N_CTX` of the 2^32 words are legal. -/
def Obligations.DecoderDispatchesOnOpcAndCounts : Prop :=
  (∀ (n : Nat) (w : CommandWord) (i : Instr), decode n w = .ok i →
    i.opcode = opcField w ∧ i.ctx = ctxField w ∧ rsvdField w = 0 ∧ ¬ illegalWord n w) ∧
  ∀ n : Nat, n ≤ 256 →
    (∀ o : BitVec 8, (Finset.univ.filter fun w : CommandWord =>
        opcField w = o ∧ (decode n w).toOption.isSome = true).card =
      if o.toNat ∈ [0x01, 0x02, 0x10, 0x11, 0x20, 0x21, 0x33] then 1
      else if o.toNat ∈ [0x30, 0x31, 0x32] then n else 0) ∧
    (Finset.univ.filter fun w : CommandWord => (decode n w).toOption.isSome = true).card = 7 + 3 * n

/-- Words written out from the opcode map of R82 and the fields of R81, on an engine with 4 slots. -/
def Obligations.WrittenOutWordsDecode : Prop :=
  decode 4 0x00000001 = .ok .enc ∧
  decode 4 0x00000002 = .ok .encLast ∧
  decode 4 0x00000010 = .ok .perm256 ∧
  decode 4 0x00000011 = .ok .perm512 ∧
  decode 4 0x00000020 = .ok .dm256 ∧
  decode 4 0x00000021 = .ok .dm512 ∧
  decode 4 0x00000330 = .ok (.hashInit 3) ∧
  decode 4 0x00000231 = .ok (.hashUpdate 2) ∧
  decode 4 0x00000132 = .ok (.hashFinal 1) ∧
  decode 4 0x00000033 = .ok .hash ∧
  decode 4 0x00000430 = .error .contextOutOfRange

/-- R87, R39: the codes of the response status and of the lifecycle; and the codes of the backend register (R34). -/
def Obligations.CodesOfStatusLifecycleAndBackend : Prop :=
  (Status.code .ok = 0x00 ∧ Status.code .invalidLength = 0x01 ∧ Status.code .invalidState = 0x02 ∧
    Status.code .illegalCommand = 0x03) ∧
  (∀ st : Status, st.code ∈ [0x00, 0x01, 0x02, 0x03]) ∧
  (Lifecycle.code .noContext = 0 ∧ Lifecycle.code .fresh = 1 ∧ Lifecycle.code .accum = 2 ∧ Lifecycle.code .final = 3) ∧
  (backendCode .backendA = 0 ∧ backendCode .backendB = 1 ∧ backendCode .backendSW = 2) ∧ ∀ b, backendCode b ≠ 3

/-! ## The port: requests and responses (20_memory.md, 30_encoding.md, 60_exceptions.md) -/

/-- A step runs the command its oldest request decodes to. The step adds nothing around it: the command itself takes its
request off the port. -/
def Obligations.StepRunsTheDecodedCommand : Prop :=
  ∀ (s : State) (r : Request) (rs : List Request) (i : Instr), s.requests = r :: rs →
    r.payload.length ≤ Config.maxPayload → decode s.nCtx r.cmd = .ok i →
    step s = exec i s ∧ s.payload = r.payload

/-- With no request the engine waits, and nothing changes but the working lanes, which hold any value between commands
(the model's reading of R234 and R44, log entries 2 and 4). -/
def Obligations.StepWithoutRequestWaits : Prop :=
  ∀ s : State, s.requests = [] →
    ∃ t, step s = .next t ∧ t.stores = s.stores ∧ t.slots = s.slots ∧ t.requests = [] ∧ t.responses = s.responses

/-- R74: a step is refused exactly when the oldest request's payload is longer than `MAX_PAYLOAD`; and `MAX_PAYLOAD` is at
least 64. -/
def Obligations.OnlyOverlongPayloadsAreRefused : Prop :=
  64 ≤ Config.maxPayload ∧
  ∀ (s : State) (q : Refusal),
    step s = .refused q ↔
      q = .payloadTooLong ∧ ∃ r rs, s.requests = r :: rs ∧ Config.maxPayload < r.payload.length

/-- R86: exactly one response a request, in request order; a result of the length R85 gives on `OK`, an empty one on any
other status. -/
def Obligations.OneResponsePerRequest : Prop :=
  ∀ (s : State) (r : Request) (rs : List Request), s.requests = r :: rs → r.payload.length ≤ Config.maxPayload →
    ∃ t resp, step s = .next t ∧ t.requests = rs ∧ t.responses = s.responses ++ [resp] ∧
      (resp.status ≠ .ok → resp.result = []) ∧
      (resp.status = .ok → ∃ i, decode s.nCtx r.cmd = .ok i ∧ resp.result.length = i.resultLength)

/-- R205, with R202, R203 and R206: the status of every response is the first error that applies, `IllegalCommand`, then
`InvalidLength`, then `InvalidState`, and `OK` when none does. -/
def Obligations.ResponseStatusFollowsThePriority : Prop :=
  ∀ (s : State) (r : Request) (rs : List Request), s.requests = r :: rs → r.payload.length ≤ Config.maxPayload →
    ∃ t result, step s = .next t ∧ t.responses = s.responses ++ [⟨s.dueStatus r, result⟩]

/-- R204: a command that raises any error writes no state: every slot and every store keeps its value, no earlier response
changes, and only its request leaves the port and its response is added. -/
def Obligations.ErrorsWriteNoState : Prop :=
  ∀ (s t : State) (resp : Response), s.requests ≠ [] → step s = .next t → t.responses = s.responses ++ [resp] →
    resp.status ≠ .ok →
    resp.result = [] ∧ t.slots = s.slots ∧ t.stores = s.stores ∧ t.requests = s.requests.tail

/-- R70: a command sees nothing of any later request, and every waiting request is answered, in order, each once, the
earlier responses standing. -/
def Obligations.RequestsAreServedInOrder : Prop :=
  (∀ (s : State) (r : Request), s.requests ≠ [] → step (s.send r) = mapNext (fun t => t.send r) (step s)) ∧
  ∀ s : State, s.Safe →
    ∃ t answers, Host.Core.run Sys2Proof.core s.requests.length s = .next t ∧ t.requests = [] ∧
      t.responses = s.responses ++ answers ∧ answers.length = s.requests.length

/-! ## Frames -/

/-- The commands that use no slot leave every slot, every store and all later requests and earlier responses as they
were. (The working lanes hold any value afterwards.) -/
def Obligations.PureCommandsFrame : Prop :=
  ∀ (i : Instr) (s t : State), i ∈ [Instr.enc, .encLast, .perm256, .perm512, .dm256, .dm512, .hash] →
    exec i s = .next t →
    t.stores = s.stores ∧ t.slots = s.slots ∧ t.requests = s.requests.tail ∧
    ∃ resp, t.responses = s.responses ++ [resp]

/-- A command on slot `j` leaves every other slot, the number of slots and every store as they were. HASH_FINAL leaves
`BUF`, `BUF_LEN` and `TOTAL_LEN` of its own slot, and `STATE` when fewer than 24 bytes are buffered. (The working lanes
hold any value afterwards.) -/
def Obligations.SlotCommandsFrame : Prop :=
  ∀ (i : Instr) (j : BitVec 8) (s t : State), i ∈ [Instr.hashInit j, .hashUpdate j, .hashFinal j] →
    exec i s = .next t →
    t.stores = s.stores ∧ t.nCtx = s.nCtx ∧ t.requests = s.requests.tail ∧
    (∃ resp, t.responses = s.responses ++ [resp]) ∧
    (∀ k : Nat, k ≠ j.toNat → t.slots[k]? = s.slots[k]?) ∧
    (i = .hashFinal j → ∀ c c' : Slot, s.slots[j.toNat]? = some c → t.slots[j.toNat]? = some c' →
      c'.buf = c.buf ∧ c'.bufLen = c.bufLen ∧ c'.totalLen = c.totalLen ∧ (c.buf.length < 24 → c'.state = c.state))

/-! ## Round primitives (40_round_primitives.md) -/

/-- R100: SubBytes replaces every byte by its S-box entry, and the table is the algebraic S-box of GF(2^8). -/
def Obligations.SBoxIsTheAesSBox : Prop :=
  (∀ (s : Block16) (i : Nat) (h : i < 16), (subBytes aesSBox s)[i] = aesSBox[s[i].toNat]) ∧
  (∀ a : Byte, aesSBox[a.toNat] = sboxAffine (gfInv a) ^^^ 0x63) ∧
  gfInv 0 = 0 ∧ ∀ a : Byte, a ≠ 0 → gfMul a (gfInv a) = 1

/-- R101: row `r` moves left by `r`, and the byte map is `SR_SRC`. -/
def Obligations.ShiftRowsIsTheByteMap : Prop :=
  (∀ (s : Block16) (r c : Fin 4), (shiftRows s)[r.val + 4 * c.val] = s[r.val + 4 * ((c.val + r.val) % 4)]) ∧
  ∀ s : Block16, shiftRows s =
    #v[s[0], s[5], s[10], s[15], s[4], s[9], s[14], s[3], s[8], s[13], s[2], s[7], s[12], s[1], s[6], s[11]]

/-- R102, R103: `mul2` is `xtime` and `mul3` adds the byte; they are multiplication by `x` and `x + 1` in GF(2^8), and MixColumns multiplies every column
by the AES matrix. -/
def Obligations.MixColumnsIsTheMatrixProduct : Prop :=
  (∀ a : Byte, mul2 a = (a <<< 1) ^^^ (if a &&& 0x80 ≠ 0 then 0x1B else 0x00) ∧ mul3 a = mul2 a ^^^ a ∧
    mul2 a = gfMul 2 a ∧ mul3 a = gfMul 3 a) ∧
  ∀ (s : Block16) (r c : Fin 4), (mixColumns s)[r.val + 4 * c.val] =
    gfMul (mixEntry r 0) s[4 * c.val] ^^^ gfMul (mixEntry r 1) s[4 * c.val + 1] ^^^
      gfMul (mixEntry r 2) s[4 * c.val + 2] ^^^ gfMul (mixEntry r 3) s[4 * c.val + 3]

/-- R105, R106: the round with mixing and the round without, whichever backend is latched. -/
def Obligations.RoundPrimitivesAreTheAesRounds : Prop :=
  ∀ (c : Stores) (s k : Block16),
    enc c s k = addRoundKey (mixColumns (shiftRows (subBytes c.sbox s))) k ∧
    encLast c s k = addRoundKey (shiftRows (subBytes c.sbox s)) k

/-- R107, which the spec marks derived: the laws the permutations rely on. -/
def Obligations.RoundPrimitiveLaws : Prop :=
  ∀ (c : Stores) (s k : Block16),
    encLast c s zero16 = shiftRows (subBytes c.sbox s) ∧
    enc c s zero16 = mixColumns (shiftRows (subBytes c.sbox s)) ∧
    enc c s k = xorBlock (enc c s zero16) k ∧
    encLast c s k = xorBlock (encLast c s zero16) k ∧
    shiftRows (subBytes c.sbox s) = subBytes c.sbox (shiftRows s)

/-- The constant-state law behind the corner cases of R112 and R113: on a state of one repeated byte both rounds give the
S-box entry of that byte, XOR the key. -/
def Obligations.ConstantStateRounds : Prop :=
  ∀ (c : Stores) (v : Byte) (k : Block16),
    enc c (rep v 16) k = xorBlock (rep c.sbox[v.toNat] 16) k ∧
    encLast c (rep v 16) k = xorBlock (rep c.sbox[v.toNat] 16) k

/-- R111: every backend gives the round primitives of R105 and R106, and no response of any request, indeed nothing of the next
state, depends on `BACKEND`. -/
def Obligations.NoResponseDependsOnTheBackend : Prop :=
  (∀ (c : Stores) (b : Backend) (s k : Block16),
    enc { c with backend := b } s k = addRoundKey (mixColumns (shiftRows (subBytes c.sbox s))) k ∧
    encLast { c with backend := b } s k = addRoundKey (shiftRows (subBytes c.sbox s)) k) ∧
  ∀ (s : State) (b : Backend), step (s.withBackend b) = mapNext (fun t => t.withBackend b) (step s)

/-- ENC and ENC_LAST complete on a 32-byte payload, with `state = PAYLOAD[0..16)` and `key = PAYLOAD[16..32)`, and only
respond; any other length raises `InvalidLength`. -/
def Obligations.EncCommandsRespond : Prop :=
  ∀ s : State,
    (s.payload.length = 32 →
      exec .enc s = .next (s.respond .ok (addRoundKey (mixColumns (shiftRows (subBytes s.stores.sbox
        (slice 16 0 s.payload)))) (slice 16 16 s.payload)).toList) ∧
      exec .encLast s = .next (s.respond .ok (addRoundKey (shiftRows (subBytes s.stores.sbox
        (slice 16 0 s.payload))) (slice 16 16 s.payload)).toList)) ∧
    (s.payload.length ≠ 32 →
      exec .enc s = .next (s.respond .invalidLength []) ∧ exec .encLast s = .next (s.respond .invalidLength []))

/-! ## Operand layout (20_memory.md) -/

/-- R62: lane `k` of a block is its bytes `16k` to `16k+15`, and concatenation is the inverse. -/
def Obligations.LanesAreSlicesAndConcatenate : Prop :=
  (∀ (b : Block32) (k : Fin 2) (i : Fin 16), (lanesOf32 b)[k.val][i.val] = b[16 * k.val + i.val]) ∧
  (∀ (b : Block64) (k : Fin 4) (i : Fin 16), (lanesOf64 b)[k.val][i.val] = b[16 * k.val + i.val]) ∧
  (∀ x : Vector Block16 2, (concat2 x).toList = x[0].toList ++ x[1].toList ∧ lanesOf32 (concat2 x) = x) ∧
  (∀ x : Vector Block16 4, (concat4 x).toList = x[0].toList ++ x[1].toList ++ x[2].toList ++ x[3].toList ∧
    lanesOf64 (concat4 x) = x) ∧
  (∀ b : Block32, concat2 (lanesOf32 b) = b) ∧ (∀ b : Block64, concat4 (lanesOf64 b) = b)

/-! ## Permutations (41_permutations.md) -/

/-- R131, R132: round `i` of Permutation-256 on `(x0, x1)` when `i` is even and on `(x1, x0)` when `i` is odd. -/
def Obligations.Round256AlternatesItsLanes : Prop :=
  ∀ (c : Stores) (x : Vector Block16 2) (i : Fin 15),
    (i.val % 2 = 0 → round256 c x i = #v[encLast c x[0] zero16, enc c (enc c x[0] c.rc[i.val]) x[1]]) ∧
    (i.val % 2 = 1 → round256 c x i = #v[enc c (enc c x[1] c.rc[i.val]) x[0], encLast c x[1] zero16])

/-- R134, R135: round `i` of Permutation-512 on the quadruple that begins with lane `i mod 4`. -/
def Obligations.Round512RotatesItsLanes : Prop :=
  ∀ (k : Stores) (x : Vector Block16 4) (i : Fin 15),
    (i.val % 4 = 0 → round512 k x i = #v[encLast k x[0] zero16, enc k x[0] x[1],
      enc k (encLast k x[2] k.rc[i.val]) zero16, enc k x[2] x[3]]) ∧
    (i.val % 4 = 1 → round512 k x i = #v[enc k x[3] x[0], encLast k x[1] zero16, enc k x[1] x[2],
      enc k (encLast k x[3] k.rc[i.val]) zero16]) ∧
    (i.val % 4 = 2 → round512 k x i = #v[enc k (encLast k x[0] k.rc[i.val]) zero16, enc k x[0] x[1],
      encLast k x[2] zero16, enc k x[2] x[3]]) ∧
    (i.val % 4 = 3 → round512 k x i = #v[enc k x[3] x[0], enc k (encLast k x[1] k.rc[i.val]) zero16,
      enc k x[1] x[2], encLast k x[3] zero16])

/-- R130: round `i` of either permutation reads `RC[i]` (its result can change with it) and no other constant; so
Permutation-256 reads none beyond `RC[9]`; the round primitives and the commands that run no permutation, ENC, ENC_LAST
and HASH_INIT, read none. -/
def Obligations.RoundConstantsReadByRound : Prop :=
  (∀ (c : Stores) (rc : Vector Block16 15) (s k : Block16),
    enc { c with rc := rc } s k = enc c s k ∧ encLast { c with rc := rc } s k = encLast c s k) ∧
  (∀ (c : Stores) (rc : Vector Block16 15) (i : Fin 15), rc[i.val] = c.rc[i.val] →
    (∀ x, round256 { c with rc := rc } x i = round256 c x i) ∧
    (∀ x, round512 { c with rc := rc } x i = round512 c x i)) ∧
  (∀ i : Fin 15, ∃ (c : Stores) (rc : Vector Block16 15), (∀ (k : Nat) (h : k < 15), k ≠ i.val → rc[k] = c.rc[k]) ∧
    (∃ x, round256 { c with rc := rc } x i ≠ round256 c x i) ∧
    (∃ x, round512 { c with rc := rc } x i ≠ round512 c x i)) ∧
  (∀ (c : Stores) (rc : Vector Block16 15), (∀ (i : Nat) (h : i < 10), rc[i] = c.rc[i]) →
    ∀ x, perm256 { c with rc := rc } x = perm256 c x) ∧
  ∀ (i : Instr) (j : BitVec 8) (s : State) (rc : Vector Block16 15), i ∈ [Instr.enc, .encLast, .hashInit j] →
    exec i (s.withConstants rc) = mapNext (fun t => t.withConstants rc) (exec i s)

/-- PERM256 completes on a 32-byte payload: ten rounds on the lane pair, and both lanes out in lane order; any other
length raises `InvalidLength`. -/
def Obligations.Perm256Responds : Prop :=
  ∀ s : State,
    (s.payload.length = 32 →
      let y := ([0, 1, 2, 3, 4, 5, 6, 7, 8, 9] : List (Fin 15)).foldl (round256 s.stores)
        #v[slice 16 0 s.payload, slice 16 16 s.payload]
      exec .perm256 s = .next (s.respond .ok (y[0].toList ++ y[1].toList))) ∧
    (s.payload.length ≠ 32 → exec .perm256 s = .next (s.respond .invalidLength []))

/-- PERM512 completes on a 64-byte payload: fifteen rounds on the lane quadruple, and the output `(x3, x0, x1, x2)`; any
other length raises `InvalidLength`. -/
def Obligations.Perm512Responds : Prop :=
  ∀ s : State,
    (s.payload.length = 64 →
      let y := ([0, 1, 2, 3, 4, 5, 6, 7, 8, 9, 10, 11, 12, 13, 14] : List (Fin 15)).foldl (round512 s.stores)
        #v[slice 16 0 s.payload, slice 16 16 s.payload, slice 16 32 s.payload, slice 16 48 s.payload]
      exec .perm512 s = .next (s.respond .ok
        (y[3].toList ++ y[0].toList ++ y[1].toList ++ y[2].toList))) ∧
    (s.payload.length ≠ 64 → exec .perm512 s = .next (s.respond .invalidLength []))

/-! ## Compressors (42_compressors.md) -/

/-- R150: `compress256` is Permutation-256 with its input XORed in, lane by lane. -/
def Obligations.Compress256FeedsForward : Prop :=
  ∀ (c : Stores) (blk : Block32),
    compress256 c blk = xorBlock (P256 c blk) blk ∧
    (compress256 c blk).toList =
      (xorBlock (perm256 c (lanesOf32 blk))[0] (lanesOf32 blk)[0]).toList ++
      (xorBlock (perm256 c (lanesOf32 blk))[1] (lanesOf32 blk)[1]).toList

/-- R151, R152: `compress512` XORs each reindexed output lane with the original lane at the same position and keeps the
high half of lanes 0 and 1 and the low half of lanes 2 and 3. -/
def Obligations.Compress512FeedsForwardAndTruncates : Prop :=
  ∀ (c : Stores) (blk : Block64),
    let x := lanesOf64 blk
    let z := rounds512.foldl (round512 c) x
    let y := xorBlock (P512 c blk) blk
    y.toList = (xorBlock z[3] x[0]).toList ++ (xorBlock z[0] x[1]).toList ++ (xorBlock z[1] x[2]).toList ++
      (xorBlock z[2] x[3]).toList ∧
    (compress512 c blk).toList = (y.toList.drop 8).take 8 ++ (y.toList.drop 24).take 8 ++
      (y.toList.drop 32).take 8 ++ (y.toList.drop 48).take 8 ∧
    (compress512 c blk).toList = (xorBlock z[3] x[0]).toList.drop 8 ++ (xorBlock z[0] x[1]).toList.drop 8 ++
      (xorBlock z[1] x[2]).toList.take 8 ++ (xorBlock z[2] x[3]).toList.take 8

/-- DM256 and DM512 complete on payloads of 32 and 64 bytes with the compressors' results; any other length raises
`InvalidLength`. -/
def Obligations.CompressorCommandsRespond : Prop :=
  ∀ s : State,
    (s.payload.length = 32 → exec .dm256 s =
      .next (s.respond .ok (xorBlock (P256 s.stores (slice 32 0 s.payload)) (slice 32 0 s.payload)).toList)) ∧
    (s.payload.length ≠ 32 → exec .dm256 s = .next (s.respond .invalidLength [])) ∧
    (s.payload.length = 64 → exec .dm512 s =
      .next (s.respond .ok (compress512 s.stores (slice 64 0 s.payload)).toList)) ∧
    (s.payload.length ≠ 64 → exec .dm512 s = .next (s.respond .invalidLength []))

/-! ## Streaming hash (43_streaming_hash.md) -/

/-- HASH_INIT completes on every slot, from every status, with an empty payload: `STATE = HASH_IV`, the buffer empty, the
counter 0, the status `FRESH`. -/
def Obligations.HashInitCreatesAFreshContext : Prop :=
  ∀ (s : State) (j : BitVec 8), j.toNat < s.nCtx → s.payload = [] →
    exec (.hashInit j) s = .next ((s.setSlot j.toNat
      { status := .fresh, state := s.stores.hashIv, buf := [], bufLen := 0, totalLen := 0 }).respond .ok [])

/-- R172: HASH_UPDATE completes on every live slot: it compresses exactly the whole 32-byte blocks of the buffer and the
payload together, `floor((BUF_LEN + n) / 32)` of them, in order, buffers the rest, and adds the length to the counter
modulo 2^64. The premise on the buffer is part of `State.Sound`. -/
def Obligations.HashUpdateAbsorbsWholeBlocks : Prop :=
  ∀ (s : State) (j : BitVec 8) (c : Slot), s.slots[j.toNat]? = some c → c.status.live = true → c.buf.length < 32 →
    let all := c.buf ++ s.payload
    let k := all.length / 32
    exec (.hashUpdate j) s = .next ((s.setSlot j.toNat
      { status := .accum
        state := chainBlocks s.stores k c.state all
        buf := all.drop (32 * k)
        bufLen := BitVec.ofNat 5 (all.length % 32)
        totalLen := c.totalLen + BitVec.ofNat 64 s.payload.length }).respond .ok [])

/-- R174: HASH_FINAL completes on every live slot with an empty payload, in one block when fewer than 24 bytes are
buffered, in two otherwise, and only then writes `STATE`. -/
def Obligations.HashFinalPadsAndRespondsTheDigest : Prop :=
  ∀ (s : State) (j : BitVec 8) (c : Slot), s.slots[j.toNat]? = some c → c.status.live = true → s.payload = [] →
    let bl := c.buf.length
    let len := be64 (c.totalLen * 8)
    (bl < 24 →
      let blk := blockOfBytes 32 (c.buf ++ [0x80] ++ List.replicate (23 - bl) 0x00 ++ len.toList)
      exec (.hashFinal j) s = .next ((s.setSlot j.toNat { c with status := .final }).respond .ok
        (compress512 s.stores (joinBlocks c.state blk)).toList)) ∧
    (24 ≤ bl →
      let blk1 := blockOfBytes 32 (c.buf ++ [0x80] ++ List.replicate (31 - bl) 0x00)
      let blk2 := blockOfBytes 32 (List.replicate 24 0x00 ++ len.toList)
      let mid := compress512 s.stores (joinBlocks c.state blk1)
      exec (.hashFinal j) s = .next ((s.setSlot j.toNat { c with status := .final, state := mid }).respond
        .ok (compress512 s.stores (joinBlocks mid blk2)).toList))

/-- R176: HASH always completes; its result is the digest of a private context and no slot is touched. -/
def Obligations.HashRespondsTheOneShotDigest : Prop :=
  ∀ s : State, exec .hash s = .next (s.respond .ok
    (mdFinal s.stores (mdUpdate s.stores (mdInit s.stores) s.payload)).2.toList)

/-- R170: the lifecycle table, and no status moves in any other way. -/
def Obligations.LifecycleFollowsTheTable : Prop :=
  (∀ (s : State) (j : BitVec 8) (c : Slot), s.slots[j.toNat]? = some c →
    (s.payload = [] → ∃ t c', exec (.hashInit j) s = .next t ∧ t.slots[j.toNat]? = some c' ∧ c'.status = .fresh ∧
      t.responses = s.responses ++ [⟨.ok, []⟩]) ∧
    (∃ t c' st, exec (.hashUpdate j) s = .next t ∧ t.slots[j.toNat]? = some c' ∧
      t.responses = s.responses ++ [⟨st, []⟩] ∧
      (c.status = .noContext → c'.status = .noContext ∧ st = .invalidState) ∧
      (c.status = .fresh → c'.status = .accum ∧ st = .ok) ∧
      (c.status = .accum → c'.status = .accum ∧ st = .ok) ∧
      (c.status = .final → c'.status = .final ∧ st = .invalidState)) ∧
    (s.payload = [] → ∃ t c' st digest, exec (.hashFinal j) s = .next t ∧ t.slots[j.toNat]? = some c' ∧
      t.responses = s.responses ++ [⟨st, digest⟩] ∧
      (c.status = .noContext → c'.status = .noContext ∧ st = .invalidState) ∧
      (c.status = .fresh → c'.status = .final ∧ st = .ok ∧ digest.length = 32) ∧
      (c.status = .accum → c'.status = .final ∧ st = .ok ∧ digest.length = 32) ∧
      (c.status = .final → c'.status = .final ∧ st = .invalidState))) ∧
  (∀ (i : Instr) (s t : State) (k : Nat) (c c' : Slot), exec i s = .next t → s.slots[k]? = some c →
    t.slots[k]? = some c' → c'.status ≠ c.status →
    (∃ j : BitVec 8, j.toNat = k ∧ i ∈ [Instr.hashInit j, .hashUpdate j, .hashFinal j]) ∧
    ∃ result, t.responses = s.responses ++ [⟨.ok, result⟩])

/-- R173: bytes 24 to 31 of the last block `md_final` compresses, read most significant byte first, are the number of
bits of the input modulo 2^64. -/
def Obligations.LengthFieldIsTheBitCount : Prop :=
  ∀ ctx : Context, ctx.buf.length < 32 →
    ∃ b, (finalBlocks ctx).getLast? = some b ∧ b.length = 32 ∧
      (b.drop 24).foldl (fun acc byte => 256 * acc + byte.toNat) 0 = (ctx.totalLen.toNat * 8) % 2 ^ 64

/-- R175, which the spec marks derived from R174: `md_final` makes one compression when at most 23 bytes are buffered and two when 24 to 31 are; each is of a
whole 32-byte block, and the digest is the chain over them. -/
def Obligations.FinalMakesOneOrTwoCompressions : Prop :=
  ∀ (c : Stores) (ctx : Context), ctx.buf.length < 32 →
    ((finalBlocks ctx).length = if ctx.buf.length ≤ 23 then 1 else 2) ∧
    (∀ b ∈ finalBlocks ctx, b.length = 32) ∧
    (mdFinal c ctx).2 = chainBlocks c (finalBlocks ctx).length ctx.state (finalBlocks ctx).flatten ∧
    (mdFinal c ctx).1.state = chainBlocks c ((finalBlocks ctx).length - 1) ctx.state (finalBlocks ctx).flatten ∧
    (mdFinal c ctx).1.buf = ctx.buf ∧ (mdFinal c ctx).1.totalLen = ctx.totalLen

/-- The buffered, incremental hash is the textbook Merkle–Damgård hash: the chain from `HASH_IV` over every 32-byte block
of the padded message. -/
def Obligations.HashIsTheChainOverThePaddedMessage : Prop :=
  ∀ (c : Stores) (data : Bytes),
    (padMessage data).length % 32 = 0 ∧
    mdHash c data = chainBlocks c ((padMessage data).length / 32) c.hashIv (padMessage data)

/-- R181, which the spec marks derived from R172: any split of the data absorbs as the whole, so a streaming hash in any slot, in any number of updates, answers
the digest of the one-shot hash of the concatenated data. -/
def Obligations.StreamingEqualsOneShot : Prop :=
  (∀ (c : Stores) (ctx : Context) (ds : List Bytes), ctx.buf.length < 32 →
    ds.foldl (mdUpdate c) ctx = mdUpdate c ctx ds.flatten) ∧
  ∀ (s : State) (j : BitVec 8) (ds : List Bytes), j.toNat < s.nCtx → s.requests = streamRequests j ds →
    (∀ d ∈ ds, d.length ≤ Config.maxPayload) →
    ∃ t, Host.Core.run Sys2Proof.core (ds.length + 2) s = .next t ∧ t.requests = [] ∧
      t.responses = s.responses ++ List.replicate (ds.length + 1) ⟨.ok, []⟩ ++
        [⟨.ok, (mdHash s.stores ds.flatten).toList⟩]

/-- R182, which the spec marks derived: a command on one slot neither reads nor writes another, and a command on no slot reads and writes none; the
digest of the same bytes is the same in any state with the same stores but for the backend. -/
def Obligations.SlotsAreIndependent : Prop :=
  (∀ (i : Instr) (s : State) (k : Nat) (c : Slot),
    (∀ j : BitVec 8, i ∈ [Instr.hashInit j, .hashUpdate j, .hashFinal j] → j.toNat ≠ k) →
    exec i (s.setSlot k c) = mapNext (fun t => t.setSlot k c) (exec i s)) ∧
  ∀ (c : Stores) (b : Backend) (data : Bytes), mdHash { c with backend := b } data = mdHash c data

/-- R183, which the spec marks derived from R173 and R174: the last block compressed holds `LEN8` at offsets 24 to 31, so messages whose lengths differ modulo 2^61 reach
their last compression with different blocks. -/
def Obligations.LengthDistinguishesTheLastBlock : Prop :=
  (∀ ctx : Context, ctx.buf.length < 32 →
    ((finalBlocks ctx).getLast?.map fun b => (b.drop 24).take 8) = some (len8 ctx.totalLen).toList) ∧
  ∀ ctx ctx' : Context, ctx.buf.length < 32 → ctx'.buf.length < 32 →
    ctx.totalLen.toNat % 2 ^ 61 ≠ ctx'.totalLen.toNat % 2 ^ 61 →
    (finalBlocks ctx).getLast? ≠ (finalBlocks ctx').getLast?

/-! ## The whole machine (10_state.md, 70_reset_and_hazards.md) -/

/-- R43, which the spec marks derived: every step keeps the state sound, and in a sound state a slot that is `FRESH` or `ACCUM` buffers fewer than 32
bytes, as many as `BUF_LEN` says. -/
def Obligations.EveryStepKeepsTheStateSound : Prop :=
  (∀ s t : State, s.Sound → step s = .next t → t.Sound) ∧
  ∀ (s : State) (c : Slot), s.Sound → c ∈ s.slots → c.status = .fresh ∨ c.status = .accum →
    c.buf.length < 32 ∧ c.bufLen.toNat = c.buf.length

/-- The state after reset is sound and safe. (That the unspecified fields are zero is the model's choice, log entry 1.) -/
def Obligations.ResetIsSound : Prop := State.reset.Sound ∧ State.reset.Safe

/-- Reset leaves every slot without a context and nothing on the port, at power-on and from any state; the number of
slots stands (R230). What the unspecified fields hold is the model's choice, log entry 1, and is not stated. That a reset
discards the requests that wait behind the one in progress is the model's reading, log entry 9. -/
def Obligations.ResetLeavesNoContext : Prop :=
  (State.reset.nCtx = Config.nCtx ∧ (∀ c ∈ State.reset.slots, c.status = .noContext) ∧
    State.reset.requests = [] ∧ State.reset.responses = []) ∧
  ∀ s : State, s.assertReset.nCtx = s.nCtx ∧ (∀ c ∈ s.assertReset.slots, c.status = .noContext) ∧
    s.assertReset.requests = [] ∧ s.assertReset.responses = []

/-- After every step each working lane holds a free value: nothing of it is preserved from one command to the next, and
nothing is known of it (R44, and U4 of 93_implementation_defined.md; the model's reading, log entry 2). -/
def Obligations.EveryStepGivesTheLanesUp : Prop :=
  ∀ s t : State, step s = .next t →
    t.draws = s.draws + 4 ∧ ∀ (k : Nat) (h : k < 4), t.lanes[k] = Config.freeLane (s.draws + k)

/-- R232, R231: the stores hold their contents from reset on: reset gives the parameters and the AES S-box, no step
changes any of them, and a later reset changes none but the backend, which it latches again. -/
def Obligations.StoresHoldFromResetOn : Prop :=
  State.reset.stores = { backend := Config.backend, rc := Config.rcTable, hashIv := Config.hashIv, sbox := aesSBox } ∧
  (∀ s t : State, step s = .next t → t.stores = s.stores ∧ t.nCtx = s.nCtx) ∧
  ∀ s : State, s.assertReset.stores = { s.stores with backend := Config.backend }

/-- R235: with a legal payload every command is answered `OK` as the first request after reset, but HASH_UPDATE and
HASH_FINAL, which are answered `InvalidState`. -/
def Obligations.FirstRequestAfterReset : Prop :=
  ∀ (i : Instr) (p : Bytes), i.wellFormed Config.nCtx = true → p.length ≤ Config.maxPayload →
    (∀ n, i.payloadLength = some n → p.length = n) →
    ∃ t st result, step (State.reset.send ⟨encode i, p⟩) = .next t ∧ t.responses = [⟨st, result⟩] ∧
      ((∃ j, i = .hashUpdate j ∨ i = .hashFinal j) → st = .invalidState) ∧
      ((∀ j, i ≠ .hashUpdate j ∧ i ≠ .hashFinal j) → st = .ok)

/-- No command reads the fields of a slot that reset leaves unspecified before HASH_INIT writes them: on a slot without a
context, other values in them give the same response and the same next state but for those fields, and HASH_INIT forgets
them (R230, R40 to R42). So the values log entry 1 chose change no response. -/
def Obligations.UnspecifiedFieldsAreNeverRead : Prop :=
  ∀ (i : Instr) (s t : State) (j : Nat) (c c' : Slot), s.slots[j]? = some c → c.status = .noContext →
    c'.status = .noContext → exec i s = .next t →
    (t.slots[j]? = some c → exec i (s.setSlot j c') = .next (t.setSlot j c')) ∧
    (t.slots[j]? ≠ some c → i = .hashInit (BitVec.ofNat 8 j) ∧ exec i (s.setSlot j c') = .next t)

/-- What the working lanes hold, and how many free values have been drawn, changes no response, no slot and no store: the
lanes are unobservable (R44, R45). -/
def Obligations.WorkingLanesAreUnobservable : Prop :=
  ∀ (s t : State) (x : Vector Block16 4) (d : Nat), step s = .next t →
    ∃ t', step { s with lanes := x, draws := d } = .next t' ∧ t'.responses = t.responses ∧ t'.slots = t.slots ∧
      t'.stores = t.stores ∧ t'.requests = t.requests

/-! ## The assembler (30_encoding.md section 4) -/

/-- A statement with operands of the right lengths and a slot below 256 is accepted and spells exactly its word and
payload. A statement the assembler accepts, other than `.raw`, spells requests with legal words and legal payload lengths
when its slot exists; one with a wrong length or a slot of 256 or more is refused; `.raw` spells its request literally
(R93). -/
def Obligations.AcceptedStatementsSpellLegalRequests : Prop :=
  (∀ (n : Nat) (st : Stmt) (rs : List Request), st.assemble = some rs → (∀ w p, st ≠ .raw w p) →
    (∀ j, (st = .hashInit j ∨ st = .hashFinal j ∨ (∃ d, st = .hashUpdate j d ∨ st = .digest j d ∨ st = .hashUpdateLong j d)) →
      j < n) →
    ∀ r ∈ rs, ∃ i, decode n r.cmd = .ok i ∧ ∀ m, i.payloadLength = some m → r.payload.length = m) ∧
  (∀ (j : Nat) (d : Bytes), 256 ≤ j → ∀ st ∈ [Stmt.hashInit j, .hashUpdate j d, .hashFinal j, .digest j d, .hashUpdateLong j d],
    st.assemble = none) ∧
  (∀ w p, (Stmt.raw w p).assemble = some [⟨w, p⟩]) ∧
  (∀ a b : Bytes, a.length = 16 → b.length = 16 →
    (Stmt.enc a b).assemble = some [⟨0x00000001, a ++ b⟩] ∧ (Stmt.encLast a b).assemble = some [⟨0x00000002, a ++ b⟩]) ∧
  (∀ a : Bytes, a.length = 32 →
    (Stmt.perm256 a).assemble = some [⟨0x00000010, a⟩] ∧ (Stmt.dm256 a).assemble = some [⟨0x00000020, a⟩]) ∧
  (∀ a : Bytes, a.length = 64 →
    (Stmt.perm512 a).assemble = some [⟨0x00000011, a⟩] ∧ (Stmt.dm512 a).assemble = some [⟨0x00000021, a⟩]) ∧
  (∀ (j : Nat) (a : Bytes), j < 256 →
    (Stmt.hashInit j).assemble = some [⟨0x00000030 ||| (BitVec.ofNat 32 j <<< 8), []⟩] ∧
    (Stmt.hashUpdate j a).assemble = some [⟨0x00000031 ||| (BitVec.ofNat 32 j <<< 8), a⟩] ∧
    (Stmt.hashFinal j).assemble = some [⟨0x00000032 ||| (BitVec.ofNat 32 j <<< 8), []⟩]) ∧
  (∀ a : Bytes, (Stmt.hash a).assemble = some [⟨0x00000033, a⟩]) ∧
  ∀ (a b : Bytes),
    (a.length ≠ 16 ∨ b.length ≠ 16 → (Stmt.enc a b).assemble = none ∧ (Stmt.encLast a b).assemble = none) ∧
    (a.length ≠ 32 → (Stmt.perm256 a).assemble = none ∧ (Stmt.dm256 a).assemble = none) ∧
    (a.length ≠ 64 → (Stmt.perm512 a).assemble = none ∧ (Stmt.dm512 a).assemble = none)

/-- R91: `digest` spells HASH_INIT, one HASH_UPDATE and HASH_FINAL. `hash.update.long` cuts its data into updates of at
most `MAX_PAYLOAD` bytes, all but the last of exactly that many, whose payloads joined are the data, and their effect on a
context is that of one update with all of it. -/
def Obligations.PseudoInstructionsExpand : Prop :=
  (∀ (j : Nat) (d : Bytes), j < 256 → (Stmt.digest j d).assemble = some (streamRequests (BitVec.ofNat 8 j) [d])) ∧
  (∀ (j : Nat) (d : Bytes), j < 256 → Config.maxPayload < d.length →
    ∃ rs, (Stmt.hashUpdateLong j d).assemble = some rs) ∧
  ∀ (j : Nat) (d : Bytes) (rs : List Request), (Stmt.hashUpdateLong j d).assemble = some rs →
    (∀ r ∈ rs, r.cmd = encode (.hashUpdate (BitVec.ofNat 8 j))) ∧
    (∀ r ∈ rs, r.payload.length ≤ Config.maxPayload) ∧
    (∀ r ∈ rs.dropLast, r.payload.length = Config.maxPayload) ∧
    (rs.map Request.payload).flatten = d ∧
    ∀ (c : Stores) (ctx : Context), ctx.buf.length < 32 →
      (rs.map Request.payload).foldl (mdUpdate c) ctx = mdUpdate c ctx d
end

