-- ==== Sys2Proof/Laws/Decode.lean ====
section
/-! SUPPORT. The fields of an encoded command, the fields that make up a word, and what each arm of the decoder can
answer. -/

namespace Sys2Proof

/-- The opcode field of a word built from an opcode and a slot. -/
theorem opcField_build (a b : BitVec 8) : opcField (a.setWidth 32 ||| (b.setWidth 32 <<< 8)) = a := by
  ext k hk
  simp [opcField, show k < 32 by omega, hk]

/-- The slot field of a word built from an opcode and a slot. -/
theorem ctxField_build (a b : BitVec 8) : ctxField (a.setWidth 32 ||| (b.setWidth 32 <<< 8)) = b := by
  ext k hk
  simp [ctxField, show 8 + k < 32 by omega, hk]

/-- The reserved field of a word built from an opcode and a slot. -/
theorem rsvdField_build (a b : BitVec 8) : rsvdField (a.setWidth 32 ||| (b.setWidth 32 <<< 8)) = 0 := by
  ext k hk
  simp [rsvdField, show ¬ 16 + k < 8 by omega, show 16 + k < 32 by omega]
  exact ⟨BitVec.getLsbD_of_ge _ _ (by omega), BitVec.getLsbD_of_ge _ _ (by omega)⟩

@[simp] theorem opcField_encode (i : Instr) : opcField (encode i) = i.opcode := opcField_build _ _

@[simp] theorem ctxField_encode (i : Instr) : ctxField (encode i) = i.ctx := ctxField_build _ _

@[simp] theorem rsvdField_encode (i : Instr) : rsvdField (encode i) = 0 := rsvdField_build _ _

/-- A word is its three fields: with no reserved bit set, `OPC | (CTX << 8)`. -/
theorem word_eq_of_rsvdField_eq_zero {w : CommandWord} (h : rsvdField w = 0) :
    w = (opcField w).setWidth 32 ||| ((ctxField w).setWidth 32 <<< 8) := by
  ext k hk
  by_cases h8 : k < 8
  · simp [opcField, ctxField, hk, h8]
  · by_cases h16 : k < 16
    · simp [opcField, ctxField, hk, h8, show k - 8 < 8 by omega, show 8 + (k - 8) = k by omega]
    · have hb : (rsvdField w).getLsbD (k - 16) = false := by simp [h]
      simp [rsvdField, show k - 16 < 16 by omega, show 16 + (k - 16) = k by omega] at hb
      rw [BitVec.getLsbD_eq_getElem hk] at hb
      simp [opcField, ctxField, h8, show ¬ k - 8 < 8 by omega, hb]

/-- A plain opcode decodes exactly when no slot is named. -/
theorem decodePlain_eq_ok {w : CommandWord} {i i' : Instr} :
    decodePlain w i = .ok i' ↔ ctxField w = 0 ∧ i' = i := by
  unfold decodePlain
  split <;> simp_all [eq_comm]

/-- A hash-context opcode decodes exactly when its slot exists. -/
theorem decodeSlot_eq_ok {n : Nat} {w : CommandWord} {mk : BitVec 8 → Instr} {i : Instr} :
    decodeSlot n w mk = .ok i ↔ (ctxField w).toNat < n ∧ i = mk (ctxField w) := by
  unfold decodeSlot
  split <;> simp_all [eq_comm]

end Sys2Proof
end

