-- ==== Sys2Proof/Laws/Operands.lean ====
section
/-! SUPPORT. Every operand form by its bytes: one lemma a form that says what each byte of it is. -/

namespace Sys2Proof.Machine

section
variable {n : Nat}

@[simp] theorem getElem_blockOfBytes (s : Bytes) (i : Nat) (h : i < n) :
    (blockOfBytes n s)[i] = s.getD i 0 := by
  simp [blockOfBytes]

@[simp] theorem getElem_slice (off : Nat) (s : Bytes) (i : Nat) (h : i < n) :
    (slice n off s)[i] = s.getD (off + i) 0 := by
  simp [slice, List.getD_eq_getElem?_getD]

@[simp] theorem getElem_xorBlock (a b : Block n) (i : Nat) (h : i < n) :
    (xorBlock a b)[i] = a[i] ^^^ b[i] := by
  simp [xorBlock]

@[simp] theorem getElem_rep (v : Byte) (i : Nat) (h : i < n) : (rep v n)[i] = v := by
  simp [rep]

@[simp] theorem getElem_zero16 (i : Nat) (h : i < 16) : zero16[i] = 0 := by
  simp [zero16]

/-- XOR with the zero lane is the identity. -/
@[simp] theorem xorBlock_zero16 (s : Block16) : xorBlock s zero16 = s := by
  ext i h : 1
  simp

/-- A block is made of its own bytes. -/
@[simp] theorem blockOfBytes_toList (b : Block n) : blockOfBytes n b.toList = b := by
  ext i h : 1
  simp [h]

/-- A block of the first `n` bytes forgets the rest. -/
theorem blockOfBytes_append_left {s u : Bytes} (h : n ≤ s.length) :
    blockOfBytes n (s ++ u) = blockOfBytes n s := by
  ext i hi : 1
  simp [List.getElem?_append_left (show i < s.length by omega)]

/-- Taking `n` bytes first changes nothing. -/
@[simp] theorem blockOfBytes_take (s : Bytes) : blockOfBytes n (s.take n) = blockOfBytes n s := by
  ext i h : 1
  simp [h]

/-- A byte sequence of exactly `n` bytes is the block it makes. -/
theorem toList_blockOfBytes {s : Bytes} (h : s.length = n) : (blockOfBytes n s).toList = s := by
  apply List.ext_getElem
  · simp [h]
  · intro i h1 h2
    simp [Vector.getElem_toList, h2]

end

@[simp] theorem getElem_lanesOf32 (b : Block32) (k i : Nat) (hk : k < 2) (hi : i < 16) :
    (lanesOf32 b)[k][i] = b[16 * k + i] := by
  simp [lanesOf32]

@[simp] theorem getElem_lanesOf64 (b : Block64) (k i : Nat) (hk : k < 4) (hi : i < 16) :
    (lanesOf64 b)[k][i] = b[16 * k + i] := by
  simp [lanesOf64]

@[simp] theorem getElem_concat2 (x : Vector Block16 2) (i : Nat) (h : i < 32) :
    (concat2 x)[i] = x[i / 16][i % 16] := by
  simp [concat2]

@[simp] theorem getElem_concat4 (x : Vector Block16 4) (i : Nat) (h : i < 64) :
    (concat4 x)[i] = x[i / 16][i % 16] := by
  simp [concat4]

@[simp] theorem getElem_joinBlocks (a b : Block32) (i : Nat) (h : i < 64) :
    (joinBlocks a b)[i] = if h : i < 32 then a[i] else b[i - 32] := by
  simp [joinBlocks]

@[simp] theorem getElem_wordOf (b : Block64) (k : Fin 8) (i : Nat) (h : i < 8) :
    (wordOf b k)[i] = b[8 * k.val + i] := by
  simp [wordOf]

@[simp] theorem getElem_concatWords (w : Vector (Block 8) 4) (i : Nat) (h : i < 32) :
    (concatWords w)[i] = w[i / 8][i % 8] := by
  simp [concatWords]

@[simp] theorem getElem_be64 (v : BitVec 64) (k : Nat) (h : k < 8) :
    (be64 v)[k] = (v >>> (8 * (7 - k))).setWidth 8 := by
  simp [be64]

end Sys2Proof.Machine
end

