-- ==== Sys2Proof/Laws/State.lean ====
section
/-! SUPPORT. What each update of the state leaves in each field: one lemma a field an update, so that no proof unfolds a
record update. -/

namespace Sys2Proof.Machine

section
variable (s : State) (st : Status) (res : Bytes) (j : Nat) (c : Slot) (r : Request)

@[simp] theorem State.respond_stores : (s.respond st res).stores = s.stores := rfl
@[simp] theorem State.respond_slots : (s.respond st res).slots = s.slots := rfl
@[simp] theorem State.respond_lanes : (s.respond st res).lanes = s.releaseLanes.lanes := rfl
@[simp] theorem State.respond_requests : (s.respond st res).requests = s.requests.tail := rfl
@[simp] theorem State.respond_responses : (s.respond st res).responses = s.responses ++ [⟨st, res⟩] := rfl
@[simp] theorem State.respond_draws : (s.respond st res).draws = s.draws + 4 := rfl
@[simp] theorem State.respond_nCtx : (s.respond st res).nCtx = s.nCtx := rfl

@[simp] theorem State.setSlot_stores : (s.setSlot j c).stores = s.stores := rfl
@[simp] theorem State.setSlot_slots : (s.setSlot j c).slots = s.slots.set j c := rfl
@[simp] theorem State.setSlot_lanes : (s.setSlot j c).lanes = s.lanes := rfl
@[simp] theorem State.setSlot_requests : (s.setSlot j c).requests = s.requests := rfl
@[simp] theorem State.setSlot_responses : (s.setSlot j c).responses = s.responses := rfl
@[simp] theorem State.setSlot_draws : (s.setSlot j c).draws = s.draws := rfl
@[simp] theorem State.setSlot_payload : (s.setSlot j c).payload = s.payload := rfl
@[simp] theorem State.setSlot_nCtx : (s.setSlot j c).nCtx = s.nCtx := by
  simp [State.nCtx]

@[simp] theorem State.releaseLanes_stores : s.releaseLanes.stores = s.stores := rfl
@[simp] theorem State.releaseLanes_slots : s.releaseLanes.slots = s.slots := rfl
@[simp] theorem State.releaseLanes_requests : s.releaseLanes.requests = s.requests := rfl
@[simp] theorem State.releaseLanes_responses : s.releaseLanes.responses = s.responses := rfl
@[simp] theorem State.releaseLanes_draws : s.releaseLanes.draws = s.draws + 4 := rfl
@[simp] theorem State.releaseLanes_payload : s.releaseLanes.payload = s.payload := rfl
@[simp] theorem State.releaseLanes_nCtx : s.releaseLanes.nCtx = s.nCtx := rfl

/-- Every lane given up holds a free value. -/
@[simp] theorem State.releaseLanes_lanes (k : Nat) (h : k < 4) :
    s.releaseLanes.lanes[k] = Config.freeLane (s.draws + k) := by
  simp [State.releaseLanes]

@[simp] theorem State.send_stores : (s.send r).stores = s.stores := rfl
@[simp] theorem State.send_slots : (s.send r).slots = s.slots := rfl
@[simp] theorem State.send_lanes : (s.send r).lanes = s.lanes := rfl
@[simp] theorem State.send_requests : (s.send r).requests = s.requests ++ [r] := rfl
@[simp] theorem State.send_responses : (s.send r).responses = s.responses := rfl
@[simp] theorem State.send_draws : (s.send r).draws = s.draws := rfl
@[simp] theorem State.send_nCtx : (s.send r).nCtx = s.nCtx := rfl

@[simp] theorem State.placeRequest_stores : (s.placeRequest r).stores = s.stores := rfl
@[simp] theorem State.placeRequest_slots : (s.placeRequest r).slots = s.slots := rfl
@[simp] theorem State.placeRequest_lanes : (s.placeRequest r).lanes = s.lanes := rfl
@[simp] theorem State.placeRequest_requests : (s.placeRequest r).requests = r :: s.requests := rfl
@[simp] theorem State.placeRequest_responses : (s.placeRequest r).responses = s.responses := rfl
@[simp] theorem State.placeRequest_draws : (s.placeRequest r).draws = s.draws := rfl
@[simp] theorem State.placeRequest_payload : (s.placeRequest r).payload = r.payload := rfl

@[simp] theorem State.assertReset_stores :
    s.assertReset.stores = { s.stores with backend := Config.backend } := rfl
@[simp] theorem State.assertReset_slots : s.assertReset.slots = List.replicate s.nCtx Slot.reset := rfl
@[simp] theorem State.assertReset_lanes : s.assertReset.lanes = State.reset.lanes := rfl
@[simp] theorem State.assertReset_requests : s.assertReset.requests = [] := rfl
@[simp] theorem State.assertReset_responses : s.assertReset.responses = [] := rfl
@[simp] theorem State.assertReset_draws : s.assertReset.draws = s.draws := rfl
end

/-- The payload being served is that of the oldest request. -/
theorem State.payload_of_cons {s : State} {r : Request} {rs : List Request} (h : s.requests = r :: rs) :
    s.payload = r.payload := by
  simp [State.payload, h]

end Sys2Proof.Machine
end

