-- ==== Sys2Proof/Laws/Ops.lean ====
section
/-! SUPPORT. What each shared operation can do, said once: the checks of a command either let it go on or end it with
their one error response. -/

namespace Sys2Proof.Machine

section
variable {s t : State} {n : Nat} {j : BitVec 8} {c : Slot}

/-- The length check passes exactly on the right length. -/
theorem requireLength_of_eq {k : Outcome} (h : s.payload.length = n) : requireLength n s k = k := by
  simp [requireLength, h]

/-- On any other length the command ends with `InvalidLength`. -/
theorem requireLength_of_ne {k : Outcome} (h : s.payload.length ≠ n) :
    requireLength n s k = .next (s.respond .invalidLength []) := by
  simp [requireLength, h, raiseError]

/-- All a length check can answer with a next state. -/
theorem requireLength_eq_next {k : Outcome} :
    requireLength n s k = .next t ↔
      (s.payload.length = n ∧ k = .next t) ∨
      (s.payload.length ≠ n ∧ t = s.respond .invalidLength []) := by
  by_cases h : s.payload.length = n
  · simp [requireLength_of_eq h, h]
  · simp [requireLength_of_ne h, h, eq_comm]

/-- A slot that exists is handed to the command. -/
theorem withSlot_of_some {k : Slot → Outcome} (h : s.slots[j.toNat]? = some c) : withSlot j s k = k c := by
  simp [withSlot, h]

/-- A slot that does not exist ends the command with `IllegalCommand`. -/
theorem withSlot_of_none {k : Slot → Outcome} (h : s.slots[j.toNat]? = none) :
    withSlot j s k = .next (s.respond .illegalCommand []) := by
  simp [withSlot, h, raiseError]

/-- All a slot check can answer with a next state. -/
theorem withSlot_eq_next {k : Slot → Outcome} :
    withSlot j s k = .next t ↔
      (∃ c, s.slots[j.toNat]? = some c ∧ k c = .next t) ∨
      (s.slots[j.toNat]? = none ∧ t = s.respond .illegalCommand []) := by
  cases h : s.slots[j.toNat]? with
  | none => simp [withSlot_of_none h, eq_comm]
  | some c => simp [withSlot_of_some h]

/-- A live slot passes the state check. -/
theorem requireLive_of_live {k : Outcome} (h : c.status.live = true) : requireLive c s k = k := by
  simp [requireLive, h]

/-- Any other slot ends the command with `InvalidState`. -/
theorem requireLive_of_not_live {k : Outcome} (h : c.status.live = false) :
    requireLive c s k = .next (s.respond .invalidState []) := by
  simp [requireLive, h, raiseError]

/-- All a state check can answer with a next state. -/
theorem requireLive_eq_next {k : Outcome} :
    requireLive c s k = .next t ↔
      (c.status.live = true ∧ k = .next t) ∨
      (c.status.live = false ∧ t = s.respond .invalidState []) := by
  cases h : c.status.live with
  | true => simp [requireLive_of_live h]
  | false => simp [requireLive_of_not_live h, eq_comm]

/-- A slot that was just written reads back. -/
theorem State.getElem?_setSlot_self (h : j.toNat < s.nCtx) :
    (s.setSlot j.toNat c).slots[j.toNat]? = some c := by
  simp only [State.setSlot_slots]
  exact List.getElem?_set_self h

/-- Writing a slot leaves every other slot alone. -/
theorem State.getElem?_setSlot_ne {i k : Nat} (h : k ≠ i) :
    (s.setSlot i c).slots[k]? = s.slots[k]? := by
  simp [State.setSlot, h.symm]

end

end Sys2Proof.Machine
end

