-- ==== Sys2Proof/Laws/PerInstr.lean ====
section
/-! SUPPORT. For every command: the three fields of its encoded word (30_encoding.md rules R81 to R84). -/

namespace Sys2Proof.Laws.EncodeFields

/-- The encoded word carries the command's opcode and slot, and no reserved bit. -/
def Statement (i : Instr) : Prop :=
  opcField (encode i) = i.opcode ∧ ctxField (encode i) = i.ctx ∧ rsvdField (encode i) = 0

/-- One proof for every shape of command. -/
theorem all (i : Instr) : Statement i := ⟨opcField_encode i, ctxField_encode i, rsvdField_encode i⟩

theorem enc : Statement .enc := all _
theorem encLast : Statement .encLast := all _
theorem perm256 : Statement .perm256 := all _
theorem perm512 : Statement .perm512 := all _
theorem dm256 : Statement .dm256 := all _
theorem dm512 : Statement .dm512 := all _
theorem hashInit (j : BitVec 8) : Statement (.hashInit j) := all _
theorem hashUpdate (j : BitVec 8) : Statement (.hashUpdate j) := all _
theorem hashFinal (j : BitVec 8) : Statement (.hashFinal j) := all _
theorem hash : Statement .hash := all _

end Sys2Proof.Laws.EncodeFields
end

