-- ==== Sys2Proof/Laws/RoundPrimitives.lean ====
section
/-! SUPPORT. The AES steps by their bytes, and the one law backend B's composition rests on. -/

namespace Sys2Proof.Machine

@[simp] theorem getElem_subBytes (sbox : Block 256) (s : Block16) (i : Nat) (h : i < 16) :
    (subBytes sbox s)[i] = sbox[s[i].toNat] := by
  simp [subBytes]

@[simp] theorem getElem_shiftRows (s : Block16) (i : Nat) (h : i < 16) :
    (shiftRows s)[i] = s[i % 4 + 4 * ((i / 4 + i % 4) % 4)] := by
  simp [shiftRows]

@[simp] theorem getElem_addRoundKey (s k : Block16) (i : Nat) (h : i < 16) :
    (addRoundKey s k)[i] = s[i] ^^^ k[i] := by
  simp [addRoundKey]

/-- With a zero key, backend B's encrypt round is SubBytes and ShiftRows alone (R111). -/
@[simp] theorem bRound_zero16 (sbox : Block 256) (s : Block16) :
    bRound sbox s zero16 = shiftRows (subBytes sbox s) := by
  simp [bRound]

end Sys2Proof.Machine
end

