-- ==== Sys2Proof/Laws/Permutations.lean ====
section
/-! SUPPORT. The lanes of an operand read from the payload, and the output reindexing by its lanes. -/

namespace Sys2Proof.Machine

/-- The lane pair of a 32-byte operand is two 16-byte operands. -/
theorem lanesOf32_slice (off : Nat) (d : Bytes) :
    lanesOf32 (slice 32 off d) = #v[slice 16 off d, slice 16 (off + 16) d] := by
  ext k hk i hi : 2
  rw [getElem_lanesOf32 _ _ _ hk hi, getElem_slice]
  obtain rfl | rfl : k = 0 ∨ k = 1 := by omega
  · simp
  · simp [Nat.add_assoc]

/-- The lane quadruple of a 64-byte operand is four 16-byte operands. -/
theorem lanesOf64_slice (off : Nat) (d : Bytes) :
    lanesOf64 (slice 64 off d) =
      #v[slice 16 off d, slice 16 (off + 16) d, slice 16 (off + 32) d, slice 16 (off + 48) d] := by
  ext k hk i hi : 2
  rw [getElem_lanesOf64 _ _ _ hk hi, getElem_slice]
  obtain rfl | rfl | rfl | rfl : k = 0 ∨ k = 1 ∨ k = 2 ∨ k = 3 := by omega
  all_goals simp [Nat.add_assoc]

section
variable (x : Vector Block16 4)

@[simp] theorem getElem_reindex512_zero : (reindex512 x)[0] = x[3] := by simp [reindex512]
@[simp] theorem getElem_reindex512_one : (reindex512 x)[1] = x[0] := by simp [reindex512]
@[simp] theorem getElem_reindex512_two : (reindex512 x)[2] = x[1] := by simp [reindex512]
@[simp] theorem getElem_reindex512_three : (reindex512 x)[3] = x[2] := by simp [reindex512]

end

end Sys2Proof.Machine
end

