-- ==== Sys2Proof/Laws/Step.lean ====
section
/-! SUPPORT. Everything a step can do with a request, in the four ways a command ends. -/

namespace Sys2Proof.Machine

/-- The errors that end a command before it computes, and nothing else: what `exec i s` answers when it does not run. -/
inductive TurnedAway (i : Instr) (s : State) : Status → Prop where
  | noSlot (h : i.wellFormed s.nCtx = false) : TurnedAway i s .illegalCommand
  | length (n : Nat) (h : i.payloadLength = some n) (h' : s.payload.length ≠ n) : TurnedAway i s .invalidLength
  | status (j : BitVec 8) (c : Slot) (h : i = .hashUpdate j ∨ i = .hashFinal j) (hc : s.slots[j.toNat]? = some c)
      (hl : c.status.live = false) : TurnedAway i s .invalidState

/-- With no request, the engine waits. -/
theorem step_of_nil {s : State} (h : s.requests = []) : step s = .next s.releaseLanes := by
  simp [step, State.fetch, h]

section
variable {s : State} {r : Request} {rs : List Request}

/-- An over-long request is refused. -/
theorem step_of_tooLong (h : s.requests = r :: rs) (hl : Config.maxPayload < r.payload.length) :
    step s = .refused .payloadTooLong := by
  simp [step, State.fetch, h, hl]

/-- An illegal word is answered by its error. -/
theorem step_of_illegal {e : DecodeError} (h : s.requests = r :: rs) (hl : r.payload.length ≤ Config.maxPayload)
    (hd : decode s.nCtx r.cmd = .error e) : step s = .next (s.respond .illegalCommand []) := by
  simp [step, State.fetch, h, Nat.not_lt.2 hl, hd, raiseError]

end

/-- HASH_INIT runs, or is turned away. -/
theorem execHashInit_cases (j : BitVec 8) (s : State) :
    (∃ c, s.slots[j.toNat]? = some c ∧ s.payload = [] ∧
      exec (.hashInit j) s = .next ((s.setSlot j.toNat (Slot.ofContext .fresh (mdInit s.stores))).respond .ok [])) ∨
    ∃ e, TurnedAway (.hashInit j) s e ∧ exec (.hashInit j) s = .next (s.respond e []) := by
  simp only [exec, execHashInit]
  cases hc : s.slots[j.toNat]? with
  | none =>
    exact .inr ⟨_, .noSlot (decide_eq_false (Nat.not_lt.2 (List.getElem?_eq_none_iff.1 hc))), withSlot_of_none hc⟩
  | some c =>
    rw [withSlot_of_some hc]
    by_cases h : s.payload.length = 0
    · exact .inl ⟨c, rfl, List.eq_nil_of_length_eq_zero h, requireLength_of_eq h⟩
    · exact .inr ⟨_, .length 0 rfl h, requireLength_of_ne h⟩

/-- HASH_UPDATE runs, or is turned away. -/
theorem execHashUpdate_cases (j : BitVec 8) (s : State) :
    (∃ c, s.slots[j.toNat]? = some c ∧ c.status.live = true ∧
      exec (.hashUpdate j) s = .next ((s.setSlot j.toNat
        (Slot.ofContext .accum (mdUpdate s.stores c.context s.payload))).respond .ok [])) ∨
    ∃ e, TurnedAway (.hashUpdate j) s e ∧ exec (.hashUpdate j) s = .next (s.respond e []) := by
  simp only [exec, execHashUpdate]
  cases hc : s.slots[j.toNat]? with
  | none =>
    exact .inr ⟨_, .noSlot (decide_eq_false (Nat.not_lt.2 (List.getElem?_eq_none_iff.1 hc))), withSlot_of_none hc⟩
  | some c =>
    rw [withSlot_of_some hc]
    cases h : c.status.live with
    | true => exact .inl ⟨c, rfl, h, requireLive_of_live h⟩
    | false => exact .inr ⟨_, .status j c (.inl rfl) hc h, requireLive_of_not_live h⟩

/-- HASH_FINAL runs, or is turned away. -/
theorem execHashFinal_cases (j : BitVec 8) (s : State) :
    (∃ c, s.slots[j.toNat]? = some c ∧ s.payload = [] ∧ c.status.live = true ∧
      exec (.hashFinal j) s = .next ((s.setSlot j.toNat
        { c with state := (mdFinal s.stores c.context).1.state, status := .final }).respond .ok
        (mdFinal s.stores c.context).2.toList)) ∨
    ∃ e, TurnedAway (.hashFinal j) s e ∧ exec (.hashFinal j) s = .next (s.respond e []) := by
  simp only [exec, execHashFinal]
  cases hc : s.slots[j.toNat]? with
  | none =>
    exact .inr ⟨_, .noSlot (decide_eq_false (Nat.not_lt.2 (List.getElem?_eq_none_iff.1 hc))), withSlot_of_none hc⟩
  | some c =>
    rw [withSlot_of_some hc]
    by_cases hp : s.payload.length = 0
    · rw [requireLength_of_eq hp]
      cases h : c.status.live with
      | true => exact .inl ⟨c, rfl, List.eq_nil_of_length_eq_zero hp, h, requireLive_of_live h⟩
      | false => exact .inr ⟨_, .status j c (.inr rfl) hc h, requireLive_of_not_live h⟩
    · exact .inr ⟨_, .length 0 rfl hp, requireLength_of_ne hp⟩

/-- Everything a command can do: it responds and writes nothing else, or it writes the one slot it names and responds
`OK`. -/
theorem exec_cases (i : Instr) (s : State) :
    (∃ st res, exec i s = .next (s.respond st res)) ∨
    ∃ (j : BitVec 8) (c : Slot) (res : Bytes), i ∈ [Instr.hashInit j, .hashUpdate j, .hashFinal j] ∧
      exec i s = .next ((s.setSlot j.toNat c).respond .ok res) := by
  have fixed : ∀ (n : Nat) (res : Bytes), ∃ st res', requireLength n s (respondOk res s) = .next (s.respond st res') := by
    intro n res
    by_cases h : s.payload.length = n
    · exact ⟨_, _, requireLength_of_eq h⟩
    · exact ⟨_, _, requireLength_of_ne h⟩
  cases i with
  | enc => exact .inl (fixed _ _)
  | encLast => exact .inl (fixed _ _)
  | perm256 => exact .inl (fixed _ _)
  | perm512 => exact .inl (fixed _ _)
  | dm256 => exact .inl (fixed _ _)
  | dm512 => exact .inl (fixed _ _)
  | hashInit j =>
    rcases execHashInit_cases j s with ⟨_, _, _, h⟩ | ⟨_, _, h⟩
    · exact .inr ⟨j, _, _, by simp, h⟩
    · exact .inl ⟨_, _, h⟩
  | hashUpdate j =>
    rcases execHashUpdate_cases j s with ⟨_, _, _, h⟩ | ⟨_, _, h⟩
    · exact .inr ⟨j, _, _, by simp, h⟩
    · exact .inl ⟨_, _, h⟩
  | hashFinal j =>
    rcases execHashFinal_cases j s with ⟨_, _, _, _, h⟩ | ⟨_, _, h⟩
    · exact .inr ⟨j, _, _, by simp, h⟩
    · exact .inl ⟨_, _, h⟩
  | hash => exact .inl ⟨_, _, rfl⟩

/-- Every command answers a next state: no command faults and none is refused (R206). -/
theorem exec_next (i : Instr) (s : State) : ∃ t, exec i s = .next t := by
  rcases exec_cases i s with ⟨_, _, h⟩ | ⟨_, _, _, _, h⟩ <;> exact ⟨_, h⟩

end Sys2Proof.Machine
end

