-- ==== Sys2Proof/Laws/StreamingHash.lean ====
section
/-! SUPPORT. The chain over 32-byte blocks and what `md_update` computes, said once; later proofs cite these and never
unfold the compressor. -/

namespace Sys2Proof.Machine

section
variable (c : Stores) (st : Block32) (k : Nat) (d e : Bytes)

/-- Dropping bytes first moves an operand's offset. -/
theorem slice_drop (n a b : Nat) : slice n a (d.drop b) = slice n (b + a) d := by
  simp [slice, List.drop_drop]

/-- An operand inside the first part of a sequence forgets the rest. -/
theorem slice_append_left {n a : Nat} (h : a + n ≤ d.length) : slice n a (d ++ e) = slice n a d := by
  ext i hi : 1
  simp [List.getElem?_append_left (show a + i < d.length by omega)]

/-- One step of the chain compresses the first 32 bytes. -/
theorem chain_eq_slice : chain c st d = compress512 c (joinBlocks st (slice 32 0 d)) := by
  simp [chain, slice]

/-- Taking 32 bytes first changes nothing. -/
theorem chain_take : chain c st (d.take 32) = chain c st d := by
  simp [chain]

/-- The chain over no block. -/
theorem chainBlocks_zero : chainBlocks c 0 st d = st := rfl

/-- The chain over one more block, taken at the front. -/
theorem chainBlocks_succ : chainBlocks c (k + 1) st d = chainBlocks c k (chain c st d) (d.drop 32) := by
  have shift : ∀ m, slice 32 (32 * m) (d.drop 32) = slice 32 (32 * m.succ) d := fun m => by
    rw [slice_drop, show 32 + 32 * m = 32 * m.succ by omega]
  simp only [chainBlocks, List.range_succ_eq_map, List.foldl_cons, List.foldl_map, chain_eq_slice, shift, Nat.mul_zero]

/-- The chain over blocks beyond the data it needs forgets them. -/
theorem chainBlocks_append_left (h : 32 * k ≤ d.length) : chainBlocks c k st (d ++ e) = chainBlocks c k st d := by
  induction k generalizing st d with
  | zero => rw [chainBlocks_zero, chainBlocks_zero]
  | succ k ih =>
    have first : chain c st (d ++ e) = chain c st d := by
      rw [chain_eq_slice, chain_eq_slice, slice_append_left _ _ (by omega)]
    rw [chainBlocks_succ, chainBlocks_succ, first, List.drop_append_of_le_length (by omega), ih _ _ (by simp; omega)]

/-- The loop of `md_update` is the chain over its blocks, and leaves the bytes after them. -/
theorem absorb_eq : absorb c k st d = (chainBlocks c k st d, d.drop (32 * k)) := by
  induction k generalizing st d with
  | zero => simp [absorb, chainBlocks_zero]
  | succ k ih =>
    rw [absorb, ih, chainBlocks_succ, chain_take, List.drop_drop, show 32 + 32 * k = 32 * (k + 1) by omega]

end

/-- `md_update` counts every byte. -/
@[simp] theorem mdUpdate_totalLen (c : Stores) (ctx : Context) (d : Bytes) :
    (mdUpdate c ctx d).totalLen = ctx.totalLen + BitVec.ofNat 64 d.length := by
  unfold mdUpdate
  simp only
  split <;> rfl

/-- `md_update` leaves the bytes after the last whole block (R43). -/
theorem length_buf_mdUpdate (c : Stores) (ctx : Context) (d : Bytes) (h : ctx.buf.length < 32) :
    (mdUpdate c ctx d).buf.length = (ctx.buf.length + d.length) % 32 := by
  unfold mdUpdate
  simp only
  split
  · simp; omega
  · rw [absorb_eq]
    simp only [List.length_drop]
    omega

end Sys2Proof.Machine
end

