-- ==== Sys2Proof/Tests/Slice0.lean ====
section
/-! SUPPORT. The model's own tests, each against a value of 95_test_vectors.md, 30_encoding.md or 40_round_primitives.md,
never against the model's own answer; then, for each statement with hypotheses, a witness that meets them. -/

namespace Sys2Proof.Tests

open Sys2Proof Sys2Proof.Machine

/-- The `n` bytes of a hexadecimal numeral, byte 0 first. -/
def hexN (n v : Nat) : Bytes := (List.range n).map fun i => BitVec.ofNat 8 (v >>> (8 * (n - 1 - i)))

/-- A lane from a numeral. -/
def lane (v : Nat) : Block16 := blockOfBytes 16 (hexN 16 v)

/-- `seqN` of 95_test_vectors.md. -/
def seqBytes (n : Nat) : Bytes := (List.range n).map (BitVec.ofNat 8)

/-- The candidate round constants 0 to 2 of 93_implementation_defined.md G4; the tests read no other. -/
def rcG4 : Vector Block16 15 :=
  ((Vector.replicate 15 zero16).set 0 (lane 0x447370032e8a1913d308a385886a3f24)).set 1
    (lane 0x896c4eec98fa2e08d0319f29223809a4) |>.set 2 (lane 0x6c0ce934cf6654be7713d038e6212845)

/-- Stores of the [RC=0] test parameters, with a backend. -/
def stores (b : Backend) : Stores := ⟨b, Vector.replicate 15 zero16, Vector.replicate 32 0, aesSBox⟩

/-- Stores of the [RC=G4] test parameters, as far as the tests read them. -/
def storesG4 : Stores := ⟨.backendA, rcG4, Vector.replicate 32 0, aesSBox⟩

/-- A slot that holds `seqN` bytes of input, all of them buffered. -/
def slotWith (st : Lifecycle) (n : Nat) : Slot := Slot.ofContext st ⟨Vector.replicate 32 0, seqBytes n, BitVec.ofNat 64 n⟩

/-- Four slots, one in each status; a backend-B engine, so that the tests cover its composition. -/
def demoSlots : List Slot := [Slot.reset, slotWith .fresh 0, slotWith .accum 24, slotWith .final 23]

/-- A machine with those slots and one waiting request. -/
def demo (cmd : CommandWord) (payload : Bytes) : State :=
  { stores := stores .backendB, slots := demoSlots, lanes := Vector.replicate 4 zero16, requests := [⟨cmd, payload⟩]
    responses := [], draws := 0 }

/-- What the tests look at: the last response, as its status code and its bytes. -/
def answer : Outcome → Option (BitVec 8 × Bytes)
  | .next t => t.responses.getLast?.map fun r => (r.status.code, r.result)
  | .fault _ => none
  | .refused _ => none

/-- What the tests look at: a slot afterwards. -/
def slotAfter (j : Nat) : Outcome → Option Slot
  | .next t => t.slots[j]?
  | .fault _ => none
  | .refused _ => none

/-! ## Well-formedness -/

theorem test_wellFormed_refuses_hashInit_4 : (Instr.hashInit 4).wellFormed 4 = false := by decide
theorem test_wellFormed_refuses_hashUpdate_4 : (Instr.hashUpdate 4).wellFormed 4 = false := by decide
theorem test_wellFormed_refuses_hashFinal_255 : (Instr.hashFinal 255).wellFormed 255 = false := by decide
theorem test_wellFormed_accepts_the_last_slot : (Instr.hashInit 3).wellFormed 4 = true := by decide

/-! ## Decoding: the words of 95_test_vectors.md section 2.7 and of the opcode table -/

theorem test_decode_enc : decode 4 0x00000001 = .ok .enc := by decide
theorem test_decode_enc_last : decode 4 0x00000002 = .ok .encLast := by decide
theorem test_decode_perm256 : decode 4 0x00000010 = .ok .perm256 := by decide
theorem test_decode_perm512 : decode 4 0x00000011 = .ok .perm512 := by decide
theorem test_decode_dm256 : decode 4 0x00000020 = .ok .dm256 := by decide
theorem test_decode_dm512 : decode 4 0x00000021 = .ok .dm512 := by decide
/-- Bit by bit: RSVD = 0, CTX = 2, OPC = 0x30. -/
theorem test_decode_hash_init : decode 4 0b00000000000000000000001000110000#32 = .ok (.hashInit 2) := by decide
theorem test_decode_hash_update : decode 4 0b00000000000000000000001100110001#32 = .ok (.hashUpdate 3) := by decide
theorem test_decode_hash_final : decode 256 0b00000000000000001111111100110010#32 = .ok (.hashFinal 255) := by decide
theorem test_decode_hash : decode 4 0x00000033 = .ok .hash := by decide
/-- V60, V61. -/
theorem test_decode_undefined : decode 4 0x00000000 = .error .undefinedOpcode ∧ decode 4 0x000000ff = .error .undefinedOpcode := by
  decide
/-- V62. -/
theorem test_decode_reserved : decode 4 0x00010010 = .error .reservedBitsSet := by decide
/-- V63, V64. -/
theorem test_decode_slot_not_taken :
    decode 4 0x00000110 = .error .contextNotTaken ∧ decode 4 0x00000121 = .error .contextNotTaken := by decide
/-- V65. -/
theorem test_decode_slot_out_of_range : decode 4 0x00000430 = .error .contextOutOfRange := by decide
theorem test_encode_words :
    encode .dm512 = 0x00000021 ∧ encode (.hashInit 4) = 0x00000430 ∧ encode (.hashFinal 255) = 0x0000ff32 := by decide

/-! ## Round primitives (95_test_vectors.md sections 1.6 and 2.1; the FIPS-197 round) -/

theorem test_sbox_entries : aesSBox[0x00] = 0x63 ∧ aesSBox[0x53] = 0xed ∧ aesSBox[0xff] = 0x16 ∧ aesSBox[0x9a] = 0xb8 := by
  decide
theorem test_sub_bytes :
    subBytes aesSBox (lane 0x193de3bea0f4e22b9ac68d2ae9f84808) = lane 0xd42711aee0bf98f1b8b45de51e415230 := by
  decide +kernel
theorem test_shift_rows :
    shiftRows (lane 0xd42711aee0bf98f1b8b45de51e415230) = lane 0xd4bf5d30e0b452aeb84111f11e2798e5 := by decide +kernel
theorem test_mix_columns :
    mixColumns (lane 0xd4bf5d30e0b452aeb84111f11e2798e5) = lane 0x046681e5e0cb199a48f8d37a2806264c := by decide +kernel
/-- V5, through a step of a backend-B engine. -/
theorem test_step_enc :
    answer (exec .enc (demo 0x00000001 (seqBytes 32))) = some (0x00, hexN 16 0x7a7b4e5638782546a8c0477a3b813f43) := by
  decide +kernel
/-- V68. -/
theorem test_enc_length : answer (exec .enc (demo 0x00000001 (seqBytes 16))) = some (0x01, []) := by decide +kernel
/-- V8. -/
theorem test_step_enc_last :
    answer (exec .encLast (demo 0x00000002 (hexN 32 0x4420823cfde6f1c26b30f90ec7dd01e4887534a20f0b0d04c36ed80e71e0fd77))) =
      some (0x00, hexN 16 0x93fbadcb5b0f71efbcafcb2bb7575cdc) := by decide +kernel

/-! ## Permutations and compressors (sections 2.2 to 2.4) -/

/-- V13's trace, round 0 from the input and round 1 from the lanes after round 0: the roles of the lanes swap. -/
theorem test_round256_trace :
    (round256 storesG4 (Vector.replicate 2 zero16) 0).toList =
      [lane 0x63636363636363636363636363636363, lane 0xbb8546b0c61363b0fa33efecd89d0537] ∧
    (round256 storesG4 #v[lane 0x63636363636363636363636363636363, lane 0xbb8546b0c61363b0fa33efecd89d0537] 1).toList =
      [lane 0xe3a1d6a00b9cfd89032a1558e2cc2925, lane 0xea7ddf9ab4c36be72d5e5ae76197fbce] := by decide +kernel
/-- V66. -/
theorem test_perm256_length : answer (exec .perm256 (demo 0x00000010 (seqBytes 31))) = some (0x01, []) := by decide +kernel
/-- V23's trace, round 2 from the lanes after round 1: lane `x2` comes first. -/
theorem test_round512_trace :
    (round512 storesG4 #v[lane 0x98989898989898989898989898989898, lane 0xfbfbfbfbfbfbfbfbfbfbfbfbfbfbfbfb,
      lane 0x407ebd4b3de8984b01c814172366fecc, lane 0x88b2f07a08638d1053c479e95f8e7fa5] 2).toList =
      [lane 0xf840e4e595bebe11391c732c80e4b1d9, lane 0xbdbdbdbdbdbdbdbdbdbdbdbdbdbdbdbd,
        lane 0x099bfa4b27e8bbb37c337ab326f346f0, lane 0x9dc850966deae15737e30c59ab6f2d81] := by decide +kernel
/-- V67. -/
theorem test_perm512_length : answer (exec .perm512 (demo 0x00000011 (seqBytes 32))) = some (0x01, []) := by decide +kernel
/-- DM256 takes 32 bytes (R153). -/
theorem test_dm256_length : answer (exec .dm256 (demo 0x00000020 (seqBytes 64))) = some (0x01, []) := by decide +kernel
/-- DM512 takes 64 bytes (R154). -/
theorem test_dm512_length : answer (exec .dm512 (demo 0x00000021 (seqBytes 65))) = some (0x01, []) := by decide +kernel
/-- V44: the truncation of `Y`. -/
theorem test_truncation :
    (truncate512 (blockOfBytes 64 (hexN 64
      0xe6c4b51521edeb2ce3d3ceeb193e7e75f7aeedbe0fd71833de40cd9a2e42e503b960a23fcc89337503edaa284772f0965534c6adb8c41849cd313bacab52c6c3))).toList =
      hexN 32 0xe3d3ceeb193e7e75de40cd9a2e42e503b960a23fcc8933755534c6adb8c41849 := by decide +kernel

/-! ## Streaming hash (sections 2.5 to 2.7 and 3) -/

/-- V76: HASH_INIT on a `FINAL` slot. -/
theorem test_hash_init :
    slotAfter 3 (exec (.hashInit 3) (demo 0x00000330 [])) = some (slotWith .fresh 0) := by decide +kernel
/-- V69. -/
theorem test_hash_init_length : answer (exec (.hashInit 1) (demo 0x00000130 [0])) = some (0x01, []) := by decide +kernel
/-- P1 step 2: 23 bytes in a `FRESH` slot are buffered and nothing is compressed. -/
theorem test_hash_update :
    slotAfter 1 (exec (.hashUpdate 1) (demo 0x00000131 (seqBytes 23))) = some (slotWith .accum 23) := by decide +kernel
/-- V70, V71. -/
theorem test_hash_update_state :
    answer (exec (.hashUpdate 0) (demo 0x00000031 (seqBytes 5))) = some (0x02, []) ∧
    answer (exec (.hashUpdate 3) (demo 0x00000331 (seqBytes 5))) = some (0x02, []) := by decide +kernel
/-- V72, V73. -/
theorem test_hash_final_priority :
    answer (exec (.hashFinal 3) (demo 0x00000332 [])) = some (0x02, []) ∧
    answer (exec (.hashFinal 3) (demo 0x00000332 [0])) = some (0x01, []) := by decide +kernel
/-- Section 2.5, N = 23 and N = 24: the blocks HASH_FINAL compresses. -/
theorem test_final_blocks :
    finalBlocks (slotWith .accum 23).context =
      [hexN 32 0x000102030405060708090a0b0c0d0e0f101112131415168000000000000000b8] ∧
    finalBlocks (slotWith .accum 24).context =
      [hexN 32 0x000102030405060708090a0b0c0d0e0f10111213141516178000000000000000, hexN 32 0xc0] := by decide +kernel
/-- Section 2.5: the length field at its corners. -/
theorem test_length_field :
    (len8 (2 ^ 61 - 1)).toList = hexN 8 0xfffffffffffffff8 ∧ (len8 (2 ^ 61)).toList = hexN 8 0 ∧
    (len8 (2 ^ 64 - 1)).toList = hexN 8 0xfffffffffffffff8 := by decide +kernel
/-- V74: the word is checked before the length. -/
theorem test_step_illegal_word : (demo 0x00010032 [0]).fetch = .illegal := by
  simp [State.fetch, demo, Config.maxPayload]
  decide

/-! ## The assembler (30_encoding.md rules R90 and R93) -/

theorem test_read_update :
    readStatement "hash.update c12, x\"00ff\"".toList = some (.hashUpdate 12 [0x00, 0xff]) := by decide +kernel
theorem test_read_raw : readStatement ".raw 0x00010030, x\"\"".toList = some (.raw 0x00010030 []) := by decide +kernel

/-! ## The host's two questions -/

theorem test_table_word : decodeTableWord 32 0x32 = some (.hashFinal 0) := by decide
theorem test_step_after_reset :
    answer (step (State.reset.withFetchWord 32 0x31)) = some (0x02, []) := by decide +kernel

/-! ## Witnesses: concrete states and operands that meet the hypotheses of the statements -/

/-- A request of at most 64 bytes is within every engine's limit. -/
theorem within_limit {n : Nat} (h : n ≤ 64) : n ≤ Config.maxPayload := by
  unfold Config.maxPayload
  omega

/-- A request no engine's port carries. -/
def longRequest : Request := ⟨encode .hash, List.replicate (Config.maxPayload + 1) 0⟩

theorem witness_DecodeOfEncodeIsTheCommand :
    (Instr.hashFinal 255).wellFormed 256 = true ∧ Instr.enc.wellFormed 1 = true := by decide

theorem witness_EncodeOfDecodeIsTheWord : decode 4 0x00000332 = .ok (.hashFinal 3) := by decide

theorem witness_IllegalWordsRaiseIllegalCommand :
    rsvdField 0x80000001 ≠ 0 ∧ rsvdField 0x00010030 ≠ 0 ∧
    (demo 0x00000430 []).requests = [⟨0x00000430, []⟩] ∧ ([] : Bytes).length ≤ Config.maxPayload ∧
    illegalWord (demo 0x00000430 []).nCtx 0x00000430 ∧ illegalWord 4 0x00000101 ∧ illegalWord 4 0x00000034 := by
  refine ⟨by decide, by decide, rfl, by simp, ?_, ?_, ?_⟩
  · exact .inr (.inr (.inr (by decide)))
  · exact .inr (.inr (.inl (by decide)))
  · exact .inl (by decide)

theorem witness_DecoderDispatchesOnOpcAndCounts : decode 256 0x0000ff31 = .ok (.hashUpdate 255) ∧ 256 ≤ 256 := by decide

theorem witness_StepRunsTheDecodedCommand :
    (demo 0x00000331 (seqBytes 64)).requests = [⟨0x00000331, seqBytes 64⟩] ∧
    (seqBytes 64).length ≤ Config.maxPayload ∧
    decode (demo 0x00000331 (seqBytes 64)).nCtx 0x00000331 = .ok (.hashUpdate 3) :=
  ⟨rfl, within_limit (by decide), by decide⟩

theorem witness_StepWithoutRequestWaits : State.reset.requests = [] := rfl

/-- Both sides of the equivalence are met: a request one byte over the limit is refused. -/
theorem witness_OnlyOverlongPayloadsAreRefused :
    step (State.reset.send longRequest) = .refused .payloadTooLong ∧ Config.maxPayload < longRequest.payload.length :=
  have h : Config.maxPayload < longRequest.payload.length := by simp [longRequest]
  ⟨step_of_tooLong rfl h, h⟩

theorem witness_OneResponsePerRequest :
    (demo 0x00000033 (seqBytes 64)).requests = [⟨0x00000033, seqBytes 64⟩] ∧ (seqBytes 64).length ≤ Config.maxPayload :=
  ⟨rfl, within_limit (by decide)⟩

theorem witness_ResponseStatusFollowsThePriority :
    (demo 0x00000332 [0]).requests = [⟨0x00000332, [0]⟩] ∧ [(0 : Byte)].length ≤ Config.maxPayload :=
  ⟨rfl, within_limit (by decide)⟩

theorem witness_ErrorsWriteNoState :
    ∃ t resp, (demo 0x00000430 []).requests ≠ [] ∧ step (demo 0x00000430 []) = .next t ∧
      t.responses = (demo 0x00000430 []).responses ++ [resp] ∧ resp.status ≠ .ok :=
  ⟨_, ⟨.illegalCommand, []⟩, by simp [demo], step_of_illegal rfl (within_limit (by decide)) (e := .contextOutOfRange)
    (by decide), rfl, by decide⟩

theorem witness_RequestsAreServedInOrder :
    ((demo 0x00000001 (seqBytes 32)).send ⟨0x00000430, seqBytes 64⟩).requests ≠ [] ∧
    ((demo 0x00000001 (seqBytes 32)).send ⟨0x00000430, seqBytes 64⟩).Safe := by
  refine ⟨by simp [demo], fun r hr => within_limit ?_⟩
  simp only [State.send_requests, demo, List.cons_append, List.nil_append, List.mem_cons, List.not_mem_nil, or_false] at hr
  rcases hr with rfl | rfl <;> decide

/-- For each of the seven commands there is a state and a next state. -/
theorem witness_PureCommandsFrame :
    ∀ i ∈ [Instr.enc, .encLast, .perm256, .perm512, .dm256, .dm512, .hash],
      ∃ t, exec i (demo (encode i) (seqBytes 32)) = .next t := fun i _ => exec_next i _

/-- For each of the three commands on the last slot there is a next state; HASH_FINAL on slot 2 has the slot before and
after. -/
theorem witness_SlotCommandsFrame :
    (∀ i ∈ [Instr.hashInit 3, .hashUpdate 3, .hashFinal 3], ∃ t, exec i (demo (encode i) []) = .next t) ∧
    ∃ t c', exec (.hashFinal 2) (demo 0x00000232 []) = .next t ∧
      (demo 0x00000232 []).slots[(2 : BitVec 8).toNat]? = some (slotWith .accum 24) ∧
      t.slots[(2 : BitVec 8).toNat]? = some c' := by
  refine ⟨fun i _ => exec_next i _, ?_⟩
  rcases execHashFinal_cases 2 (demo 0x00000232 []) with ⟨c, _, _, _, h⟩ | ⟨e, ha, h⟩
  · exact ⟨_, _, h, rfl, State.getElem?_setSlot_self (j := 2) (by decide)⟩
  · exact ⟨_, _, h, rfl, rfl⟩

theorem witness_SBoxIsTheAesSBox : (0x01 : Byte) ≠ 0 ∧ (0xff : Byte) ≠ 0 ∧ 15 < 16 := by decide

theorem witness_EncCommandsRespond :
    (demo 0x00000001 (seqBytes 32)).payload.length = 32 ∧ (demo 0x00000001 (seqBytes 31)).payload.length ≠ 32 ∧
    (demo 0x00000002 []).payload.length ≠ 32 := by decide

theorem witness_Round256AlternatesItsLanes :
    (0 : Fin 15).val % 2 = 0 ∧ (9 : Fin 15).val % 2 = 1 ∧ (14 : Fin 15).val % 2 = 0 := by decide

theorem witness_Round512RotatesItsLanes :
    (12 : Fin 15).val % 4 = 0 ∧ (13 : Fin 15).val % 4 = 1 ∧ (14 : Fin 15).val % 4 = 2 ∧ (11 : Fin 15).val % 4 = 3 := by decide

/-- Two tables that agree on `RC[0]` to `RC[9]` and differ at `RC[10]`; and the last of the three commands. -/
theorem witness_RoundConstantsReadByRound :
    Instr.hashInit 3 ∈ [Instr.enc, .encLast, .hashInit 3] ∧
    (∀ (i : Nat) (h : i < 10), ((stores .backendSW).rc.set 10 (rep 1 16))[i] = (stores .backendSW).rc[i]) ∧
    ((stores .backendSW).rc.set 10 (rep 1 16))[10] ≠ (stores .backendSW).rc[10] := by decide +kernel

theorem witness_Perm256Responds :
    (demo 0x00000010 (seqBytes 32)).payload.length = 32 ∧ (demo 0x00000010 (seqBytes 33)).payload.length ≠ 32 := by decide

theorem witness_Perm512Responds :
    (demo 0x00000011 (seqBytes 64)).payload.length = 64 ∧ (demo 0x00000011 (seqBytes 63)).payload.length ≠ 64 := by decide

theorem witness_CompressorCommandsRespond :
    (demo 0x00000020 (seqBytes 32)).payload.length = 32 ∧ (demo 0x00000020 (seqBytes 64)).payload.length ≠ 32 ∧
    (demo 0x00000021 (seqBytes 64)).payload.length = 64 ∧ (demo 0x00000021 (seqBytes 32)).payload.length ≠ 64 := by decide

theorem witness_HashInitCreatesAFreshContext :
    (3 : BitVec 8).toNat < (demo 0x00000330 []).nCtx ∧ (demo 0x00000330 []).payload = [] := by decide

/-- A `FRESH` slot, and an `ACCUM` slot with a buffer. -/
theorem witness_HashUpdateAbsorbsWholeBlocks :
    (demo 0x00000131 []).slots[(1 : BitVec 8).toNat]? = some (slotWith .fresh 0) ∧
    (slotWith .fresh 0).status.live = true ∧ (slotWith .fresh 0).buf.length < 32 ∧
    (demo 0x00000231 (seqBytes 64)).slots[(2 : BitVec 8).toNat]? = some (slotWith .accum 24) ∧
    (slotWith .accum 24).status.live = true ∧ (slotWith .accum 24).buf.length < 32 := by decide +kernel

/-- Buffers of 0 bytes and of exactly 24, in a state; and of 23 and 31, as contexts. -/
theorem witness_HashFinalPadsAndRespondsTheDigest :
    (demo 0x00000132 []).slots[(1 : BitVec 8).toNat]? = some (slotWith .fresh 0) ∧
    (slotWith .fresh 0).status.live = true ∧ (demo 0x00000132 []).payload = [] ∧ (slotWith .fresh 0).buf.length < 24 ∧
    (demo 0x00000232 []).slots[(2 : BitVec 8).toNat]? = some (slotWith .accum 24) ∧
    (slotWith .accum 24).status.live = true ∧ (demo 0x00000232 []).payload = [] ∧ 24 ≤ (slotWith .accum 24).buf.length ∧
    (slotWith .accum 23).buf.length < 24 ∧ 24 ≤ (slotWith .accum 31).buf.length := by decide +kernel

/-- A slot in each of the four statuses, with an empty payload; and a step that changes a status. -/
theorem witness_LifecycleFollowsTheTable :
    (demo 0x00000030 []).payload = [] ∧
    (demo 0x00000030 []).slots.map Slot.status = [.noContext, .fresh, .accum, .final] ∧
    ∃ t c', exec (.hashInit 3) (demo 0x00000330 []) = .next t ∧
      (demo 0x00000330 []).slots[3]? = some (slotWith .final 23) ∧ t.slots[3]? = some c' ∧
      c'.status ≠ (slotWith .final 23).status :=
  ⟨rfl, by decide +kernel, _, slotWith .fresh 0, rfl, rfl, by decide +kernel, by decide⟩

theorem witness_LengthFieldIsTheBitCount :
    (slotWith .accum 0).context.buf.length < 32 ∧ (slotWith .accum 31).context.buf.length < 32 := by decide +kernel

theorem witness_FinalMakesOneOrTwoCompressions :
    (slotWith .accum 23).context.buf.length < 32 ∧ (slotWith .accum 31).context.buf.length < 32 ∧
    [(0 : Byte)] ∈ [[(0 : Byte)]] := by decide +kernel

/-- Two chunks in the last slot of four. -/
theorem witness_StreamingEqualsOneShot :
    (slotWith .accum 31).context.buf.length < 32 ∧
    ∃ s : State, (3 : BitVec 8).toNat < s.nCtx ∧ s.requests = streamRequests 3 [seqBytes 31, seqBytes 64] ∧
      ∀ d ∈ [seqBytes 31, seqBytes 64], d.length ≤ Config.maxPayload := by
  refine ⟨by decide +kernel, { demo 0 [] with requests := streamRequests 3 [seqBytes 31, seqBytes 64] }, by decide, rfl, ?_⟩
  intro d hd
  simp only [List.mem_cons, List.not_mem_nil, or_false] at hd
  rcases hd with rfl | rfl
  · exact within_limit (by decide)
  · exact within_limit (by decide)

/-- A command on slot 2 uses no other; one without a slot uses none. -/
theorem witness_SlotsAreIndependent :
    (∀ j : BitVec 8, Instr.hashFinal 2 ∈ [Instr.hashInit j, .hashUpdate j, .hashFinal j] → j.toNat ≠ 3) ∧
    ∀ j : BitVec 8, Instr.hash ∈ [Instr.hashInit j, .hashUpdate j, .hashFinal j] → j.toNat ≠ 3 := by
  refine ⟨fun j h => ?_, fun j h => ?_⟩
  · simp only [List.mem_cons, List.not_mem_nil, or_false, reduceCtorEq, false_or, Instr.hashFinal.injEq] at h
    subst h
    decide
  · simp at h

theorem witness_LengthDistinguishesTheLastBlock :
    (slotWith .accum 23).context.buf.length < 32 ∧ (slotWith .accum 31).context.buf.length < 32 ∧
    (slotWith .accum 23).context.totalLen.toNat % 2 ^ 61 ≠ (slotWith .accum 31).context.totalLen.toNat % 2 ^ 61 := by
  decide +kernel

/-- Every slot of the demonstration machine is sound, one in each status. -/
theorem demo_sound (cmd : CommandWord) (p : Bytes) : (demo cmd p).Sound := by
  refine ⟨by simp [State.nCtx, demo, demoSlots], by simp [State.nCtx, demo, demoSlots], fun c hc => ?_⟩
  simp only [demo, demoSlots, List.mem_cons, List.not_mem_nil, or_false] at hc
  rcases hc with rfl | rfl | rfl | rfl
  · exact ⟨by decide, by decide, fun h => by cases h⟩
  · exact ⟨by decide, by decide, fun _ => rfl⟩
  · exact ⟨by decide +kernel, by decide +kernel, fun h => by cases h⟩
  · exact ⟨by decide +kernel, by decide +kernel, fun h => by cases h⟩

theorem witness_EveryStepKeepsTheStateSound :
    (demo 0x00000430 []).Sound ∧ (∃ t, step (demo 0x00000430 []) = .next t) ∧
    slotWith .fresh 0 ∈ (demo 0x00000430 []).slots ∧ (slotWith .fresh 0).status = .fresh ∧
    slotWith .accum 24 ∈ (demo 0x00000430 []).slots ∧ (slotWith .accum 24).status = .accum :=
  ⟨demo_sound _ _,
    ⟨_, step_of_illegal rfl (within_limit (by decide)) (e := .contextOutOfRange) (by decide)⟩,
    by simp [demo, demoSlots], rfl, by simp [demo, demoSlots], rfl⟩

theorem witness_StoresHoldFromResetOn : ∃ t, step State.reset = .next t := ⟨_, step_of_nil rfl⟩

/-- A slot command on slot 0, which every engine has, with its payload. -/
theorem witness_FirstRequestAfterReset :
    (Instr.hashFinal 0).wellFormed Config.nCtx = true ∧ ([] : Bytes).length ≤ Config.maxPayload ∧
    (∀ n, (Instr.hashFinal 0).payloadLength = some n → ([] : Bytes).length = n) ∧
    Instr.perm512.wellFormed Config.nCtx = true ∧ (seqBytes 64).length ≤ Config.maxPayload ∧
    (∀ n, Instr.perm512.payloadLength = some n → (seqBytes 64).length = n) := by
  refine ⟨by simp [Instr.wellFormed, Config.nCtx], by simp, ?_, rfl, within_limit (by decide), ?_⟩
  · simp [Instr.payloadLength]
  · intro n h
    cases h
    decide

/-- Slot 0 has no context; a command on another slot leaves it, HASH_INIT on it does not. -/
theorem witness_UnspecifiedFieldsAreNeverRead :
    (demo 0x00000030 []).slots[0]? = some Slot.reset ∧ Slot.reset.status = .noContext ∧
    (slotWith .noContext 5).status = .noContext ∧ (slotWith .noContext 5) ≠ Slot.reset ∧
    (∃ t, exec (.hashUpdate 0) (demo 0x00000031 []) = .next t ∧ t.slots[0]? = some Slot.reset) ∧
    ∃ t, exec (.hashInit 0) (demo 0x00000030 []) = .next t ∧ t.slots[0]? ≠ some Slot.reset :=
  ⟨rfl, rfl, rfl, by decide, ⟨_, rfl, rfl⟩, _, rfl, by decide⟩

theorem witness_EveryStepGivesTheLanesUp : (∃ t, step State.reset = .next t) ∧ ∃ t, step (demo 0x00000430 []) = .next t :=
  ⟨⟨_, step_of_nil rfl⟩, _, step_of_illegal rfl (within_limit (by decide)) (e := .contextOutOfRange) (by decide)⟩

theorem witness_WorkingLanesAreUnobservable : ∃ t, step (demo 0x00000430 []) = .next t :=
  ⟨_, step_of_illegal rfl (within_limit (by decide)) (e := .contextOutOfRange) (by decide)⟩

/-- A statement with a slot and data that spells one request, and the operands of wrong lengths. -/
theorem witness_AcceptedStatementsSpellLegalRequests :
    (Stmt.hashUpdate 3 (seqBytes 5)).assemble = some [⟨0x00000331, seqBytes 5⟩] ∧
    (∀ w p, Stmt.hashUpdate 3 (seqBytes 5) ≠ .raw w p) ∧
    (∀ j, (Stmt.hashUpdate 3 (seqBytes 5) = .hashInit j ∨ Stmt.hashUpdate 3 (seqBytes 5) = .hashFinal j ∨
      ∃ d, Stmt.hashUpdate 3 (seqBytes 5) = .hashUpdate j d ∨ Stmt.hashUpdate 3 (seqBytes 5) = .digest j d ∨
        Stmt.hashUpdate 3 (seqBytes 5) = .hashUpdateLong j d) → j < 4) ∧
    256 ≤ 256 ∧ (seqBytes 15).length ≠ 16 ∧ (seqBytes 31).length ≠ 32 ∧ (seqBytes 65).length ≠ 64 ∧
    255 < 256 ∧ (seqBytes 16).length = 16 ∧ (seqBytes 32).length = 32 ∧ (seqBytes 64).length = 64 := by
  refine ⟨by decide +kernel, by simp, ?_, by decide, by decide, by decide, by decide, by decide, by decide, by decide,
    by decide⟩
  intro j h
  simp at h
  omega

/-- The last slot a statement can name; and data one byte longer than the limit. -/
theorem witness_PseudoInstructionsExpand :
    255 < 256 ∧ Config.maxPayload < longRequest.payload.length ∧
    (∃ rs, (Stmt.hashUpdateLong 0 longRequest.payload).assemble = some rs) ∧
    (slotWith .accum 31).context.buf.length < 32 := by
  refine ⟨by decide, by simp [longRequest], ?_, by decide +kernel⟩
  simp only [Stmt.assemble, longRequest, List.length_replicate]
  exact ⟨_, if_pos ⟨by decide, by omega⟩⟩

end Sys2Proof.Tests
end

section
/-! PROOFS, family 20_memory.md: the port (rules R70, R74, R86) and the lanes of a block (rule R62). -/

namespace Sys2Proof.Machine

/-! ## What a step answers -/

/-- Every command ends with exactly one response and takes its request off the port (R86). -/
theorem exec_responds (i : Instr) (s : State) :
    ∃ t resp, exec i s = .next t ∧ t.requests = s.requests.tail ∧ t.responses = s.responses ++ [resp] := by
  rcases exec_cases i s with ⟨st, res, h⟩ | ⟨j, c, res, -, h⟩
  · exact ⟨_, ⟨st, res⟩, h, rfl, rfl⟩
  · exact ⟨_, ⟨.ok, res⟩, h, rfl, rfl⟩

section
variable {s : State} {r : Request} {rs : List Request}

/-- A legal word within the limit runs the command it decodes to. -/
theorem step_of_command {i : Instr} (h : s.requests = r :: rs) (hl : r.payload.length ≤ Config.maxPayload)
    (hd : decode s.nCtx r.cmd = .ok i) : step s = exec i s := by
  simp [step, State.fetch, h, Nat.not_lt.2 hl, hd]

/-- A request within the limit is answered by one response, whatever its word. -/
theorem step_responds (h : s.requests = r :: rs) (hl : r.payload.length ≤ Config.maxPayload) :
    ∃ t resp, step s = .next t ∧ t.requests = rs ∧ t.responses = s.responses ++ [resp] := by
  cases hd : decode s.nCtx r.cmd with
  | error e => exact ⟨_, _, step_of_illegal h hl hd, congrArg List.tail h, rfl⟩
  | ok i =>
    rw [step_of_command h hl hd, show rs = s.requests.tail by rw [h, List.tail_cons]]
    exact exec_responds i s

/-- An idle step and a step within the limit both answer a next state, so only the limit refuses (R74). -/
theorem step_eq_refused_iff {q : Refusal} :
    step s = .refused q ↔
      q = .payloadTooLong ∧ ∃ r rs, s.requests = r :: rs ∧ Config.maxPayload < r.payload.length := by
  cases h : s.requests with
  | nil => simp [step_of_nil h]
  | cons r rs =>
    rcases Nat.lt_or_ge Config.maxPayload r.payload.length with hl | hl
    · simp [step_of_tooLong h hl, hl, eq_comm]
    · obtain ⟨t, -, ht, -⟩ := step_responds h hl
      simp [ht, Nat.not_lt.2 hl]

end

/-! ## A later request is not seen

While a request waits, every shared operation of the commands commutes with sending another one behind it; so does each
command, and so does the step. -/

section
variable {s : State} (r : Request) (h : s.requests ≠ [])
include h

theorem State.payload_send : (s.send r).payload = s.payload := by
  simp [State.payload, List.head?_append_of_ne_nil _ h]

theorem State.respond_send (st : Status) (res : Bytes) : (s.send r).respond st res = (s.respond st res).send r := by
  simp [State.respond, State.send, State.releaseLanes, List.tail_append_of_ne_nil h]

theorem raiseError_send (e : Status) :
    raiseError e (s.send r) = mapNext (fun t => t.send r) (raiseError e s) := by
  simp only [raiseError, mapNext, State.respond_send r h]

theorem respondOk_send (res : Bytes) :
    respondOk res (s.send r) = mapNext (fun t => t.send r) (respondOk res s) := by
  simp only [respondOk, mapNext, State.respond_send r h]

theorem respondOk_setSlot_send (res : Bytes) (j : Nat) (c : Slot) :
    respondOk res ((s.send r).setSlot j c) = mapNext (fun t => t.send r) (respondOk res (s.setSlot j c)) :=
  respondOk_send (s := s.setSlot j c) r h res

theorem requireLength_send (n : Nat) (k : Outcome) :
    requireLength n (s.send r) (mapNext (fun t => t.send r) k) =
      mapNext (fun t => t.send r) (requireLength n s k) := by
  simp only [requireLength, State.payload_send r h, raiseError_send r h]
  split <;> rfl

theorem requireLive_send (c : Slot) (k : Outcome) :
    requireLive c (s.send r) (mapNext (fun t => t.send r) k) = mapNext (fun t => t.send r) (requireLive c s k) := by
  simp only [requireLive, raiseError_send r h]
  split <;> rfl

theorem withSlot_send (j : BitVec 8) (k : Slot → Outcome) :
    withSlot j (s.send r) (fun c => mapNext (fun t => t.send r) (k c)) =
      mapNext (fun t => t.send r) (withSlot j s k) := by
  simp only [withSlot, State.send_slots, raiseError_send r h]
  split <;> rfl

/-- The commands of a fixed payload length differ only in the function of the stores and the payload they respond. -/
theorem requireLength_respondOk_send (n : Nat) (f : Stores → Bytes → Bytes) :
    requireLength n (s.send r) (respondOk (f (s.send r).stores (s.send r).payload) (s.send r)) =
      mapNext (fun t => t.send r) (requireLength n s (respondOk (f s.stores s.payload) s)) := by
  rw [State.payload_send r h, State.send_stores, respondOk_send r h, requireLength_send r h]

/-- A command sees nothing of a later request (R70). -/
theorem exec_send (i : Instr) : exec i (s.send r) = mapNext (fun t => t.send r) (exec i s) := by
  cases i with
  | enc => exact requireLength_respondOk_send r h 32 fun c p => (enc c (slice 16 0 p) (slice 16 16 p)).toList
  | encLast => exact requireLength_respondOk_send r h 32 fun c p => (encLast c (slice 16 0 p) (slice 16 16 p)).toList
  | perm256 => exact requireLength_respondOk_send r h 32 fun c p => (P256 c (slice 32 0 p)).toList
  | perm512 => exact requireLength_respondOk_send r h 64 fun c p => (P512 c (slice 64 0 p)).toList
  | dm256 => exact requireLength_respondOk_send r h 32 fun c p => (compress256 c (slice 32 0 p)).toList
  | dm512 => exact requireLength_respondOk_send r h 64 fun c p => (compress512 c (slice 64 0 p)).toList
  | hashInit j =>
    simp only [exec, execHashInit, State.send_stores, respondOk_setSlot_send r h, requireLength_send r h,
      withSlot_send r h]
  | hashUpdate j =>
    simp only [exec, execHashUpdate, State.send_stores, State.payload_send r h, respondOk_setSlot_send r h,
      requireLive_send r h, withSlot_send r h]
  | hashFinal j =>
    simp only [exec, execHashFinal, State.send_stores, respondOk_setSlot_send r h, requireLive_send r h,
      requireLength_send r h, withSlot_send r h]
  | hash => simp only [exec, execHash, State.send_stores, State.payload_send r h, respondOk_send r h]

/-- The step looks at the oldest request alone, whether it refuses it, rejects its word or runs its command. -/
theorem step_send : step (s.send r) = mapNext (fun t => t.send r) (step s) := by
  obtain ⟨q, qs, hq⟩ := List.exists_cons_of_ne_nil h
  have hq' : (s.send r).requests = q :: (qs ++ [r]) := by simp [hq]
  rcases Nat.lt_or_ge Config.maxPayload q.payload.length with hl | hl
  · rw [step_of_tooLong hq hl, step_of_tooLong hq' hl, mapNext]
  · cases hd : decode s.nCtx q.cmd with
    | error e => rw [step_of_illegal hq hl hd, step_of_illegal hq' hl hd, State.respond_send r h, mapNext]
    | ok i => rw [step_of_command hq hl hd, step_of_command hq' hl hd, exec_send r h]

end

/-! ## Every waiting request is answered -/

/-- A run goes on from the next state. -/
theorem run_succ_of_step {s t : State} (h : step s = .next t) (k : Nat) :
    Host.Core.run core (k + 1) s = Host.Core.run core k t := by
  simp only [Host.Core.run, show core.step s = .next t from h]

/-- As many steps as there are requests answer them all: by induction on the waiting requests, each step answering the
oldest and leaving a safe state. -/
theorem run_answers_requests (rs : List Request) (s : State) (hs : s.requests = rs) (safe : s.Safe) :
    ∃ t answers, Host.Core.run core rs.length s = .next t ∧ t.requests = [] ∧
      t.responses = s.responses ++ answers ∧ answers.length = rs.length := by
  induction rs generalizing s with
  | nil => exact ⟨s, [], rfl, hs, by simp, rfl⟩
  | cons r rs ih =>
    rw [State.Safe, hs, List.forall_mem_cons] at safe
    obtain ⟨limit, later⟩ := safe
    obtain ⟨u, resp, hstep, hreq, hresp⟩ := step_responds hs limit
    obtain ⟨t, answers, hrun, hnil, hans, hlen⟩ := ih u hreq (by rwa [State.Safe, hreq])
    refine ⟨t, resp :: answers, ?_, hnil, ?_, ?_⟩
    · rw [List.length_cons, run_succ_of_step hstep, hrun]
    · rw [hans, hresp, List.append_assoc, List.singleton_append]
    · rw [List.length_cons, List.length_cons, hlen]

/-! ## Lanes and blocks -/

/-- The bytes of a concatenation of blocks are their bytes in order. -/
theorem toList_flatten {α : Type} {n m : Nat} (x : Vector (Vector α n) m) :
    x.flatten.toList = (x.toList.map Vector.toList).flatten := by
  obtain ⟨a, rfl⟩ := x
  simp only [Vector.flatten_mk, Vector.toList_mk, Array.toList_flatten, Array.toList_map, List.map_map]
  rfl

theorem concat2_eq_flatten (x : Vector Block16 2) : concat2 x = x.flatten := by
  ext i hi : 1
  rw [getElem_concat2 _ _ hi, Vector.getElem_flatten]

theorem concat4_eq_flatten (x : Vector Block16 4) : concat4 x = x.flatten := by
  ext i hi : 1
  rw [getElem_concat4 _ _ hi, Vector.getElem_flatten]

/-- `x0 || x1` is the bytes of `x0`, then those of `x1` (R62). -/
theorem toList_concat2 (x : Vector Block16 2) : (concat2 x).toList = x[0].toList ++ x[1].toList := by
  rw [concat2_eq_flatten, toList_flatten]
  match x with
  | ⟨⟨[x0, x1]⟩, _⟩ => simp

/-- `x0 || x1 || x2 || x3` is the bytes of the four lanes in order (R62). -/
theorem toList_concat4 (x : Vector Block16 4) :
    (concat4 x).toList = x[0].toList ++ x[1].toList ++ x[2].toList ++ x[3].toList := by
  rw [concat4_eq_flatten, toList_flatten]
  match x with
  | ⟨⟨[x0, x1, x2, x3]⟩, _⟩ => simp

section
variable {k i : Nat}

/-- Byte `16k + i` of a block lies in lane `k`. -/
theorem laneIndex_div (hi : i < 16) : (16 * k + i) / 16 = k := by omega

/-- Byte `16k + i` of a block is byte `i` of its lane. -/
theorem laneIndex_mod (hi : i < 16) : (16 * k + i) % 16 = i := by omega

end

@[simp] theorem lanesOf32_concat2 (x : Vector Block16 2) : lanesOf32 (concat2 x) = x := by
  ext k hk i hi : 2
  simp [laneIndex_div hi, laneIndex_mod hi]

@[simp] theorem lanesOf64_concat4 (x : Vector Block16 4) : lanesOf64 (concat4 x) = x := by
  ext k hk i hi : 2
  simp [laneIndex_div hi, laneIndex_mod hi]

@[simp] theorem concat2_lanesOf32 (b : Block32) : concat2 (lanesOf32 b) = b := by
  ext i hi : 1
  simp [Nat.div_add_mod]

@[simp] theorem concat4_lanesOf64 (b : Block64) : concat4 (lanesOf64 b) = b := by
  ext i hi : 1
  simp [Nat.div_add_mod]

end Sys2Proof.Machine

open Sys2Proof.Machine

/-- Settles O9: `MAX_PAYLOAD` is 64 and something more, and only a request over it is refused. -/
theorem onlyOverlongPayloadsAreRefused : Obligations.OnlyOverlongPayloadsAreRefused := by
  unfold Obligations.OnlyOverlongPayloadsAreRefused
  exact ⟨Nat.le_add_left _ _, fun _ _ => step_eq_refused_iff⟩

/-- Settles O13: the step commutes with sending, and a safe queue is answered by induction on its length. -/
theorem requestsAreServedInOrder : Obligations.RequestsAreServedInOrder := by
  unfold Obligations.RequestsAreServedInOrder
  exact ⟨fun _ r h => step_send r h, fun s safe => run_answers_requests s.requests s rfl safe⟩

/-- Settles O24: the lanes by their bytes, and the concatenation as the flattening of the lanes. -/
theorem lanesAreSlicesAndConcatenate : Obligations.LanesAreSlicesAndConcatenate := by
  unfold Obligations.LanesAreSlicesAndConcatenate
  exact ⟨fun b k i => getElem_lanesOf32 b k i k.isLt i.isLt, fun b k i => getElem_lanesOf64 b k i k.isLt i.isLt,
    fun x => ⟨toList_concat2 x, lanesOf32_concat2 x⟩, fun x => ⟨toList_concat4 x, lanesOf64_concat4 x⟩,
    concat2_lanesOf32, concat4_lanesOf64⟩

end

section
/-! PROOFS, family 30_encoding.md: the decoder's errors (R88), the response of a request (R86), the codes (R87) and the
assembler (R90, R91, R93). -/

namespace Sys2Proof

/-! ## The decoder -/

section
variable {n : Nat} {w : CommandWord}

/-- A plain opcode fails to decode exactly when a slot is named. -/
theorem decodePlain_fails_iff {i : Instr} : (∃ e, decodePlain w i = .error e) ↔ ctxField w ≠ 0 := by
  unfold decodePlain
  split <;> simp_all

/-- A hash-context opcode fails to decode exactly when its slot does not exist. -/
theorem decodeSlot_fails_iff {mk : BitVec 8 → Instr} :
    (∃ e, decodeSlot n w mk = .error e) ↔ n ≤ (ctxField w).toNat := by
  unfold decodeSlot
  split <;> simp_all

/-- R88: the reserved bits first, then one arm of the decoder an opcode. -/
theorem decode_fails_iff : (∃ e, decode n w = .error e) ↔ Machine.illegalWord n w := by
  unfold decode Machine.illegalWord
  split
  next rsvd => exact iff_of_true ⟨_, rfl⟩ (.inr (.inl rsvd))
  next rsvd =>
    split
    case h_11 => simp_all
    all_goals
      next opc => simp [opc, Decidable.not_not.1 rsvd, decodePlain_fails_iff, decodeSlot_fails_iff]

/-- A well-formed command decodes from its own word. -/
theorem decode_encode {i : Instr} (h : i.wellFormed n = true) : decode n (encode i) = .ok i := by
  have plain : ∀ {i : Instr}, i.ctx = 0 → decodePlain (encode i) i = .ok i := fun {i} h0 =>
    decodePlain_eq_ok.2 ⟨by rw [ctxField_encode, h0], rfl⟩
  have slot : ∀ {i : Instr} {mk : BitVec 8 → Instr}, i.ctx.toNat < n → i = mk i.ctx →
      decodeSlot n (encode i) mk = .ok i := fun {i} {mk} hlt hmk =>
    decodeSlot_eq_ok.2 ⟨by rwa [ctxField_encode], by rwa [ctxField_encode]⟩
  unfold decode
  rw [rsvdField_encode, opcField_encode, if_neg (by simp)]
  cases i with
  | enc => exact plain rfl
  | encLast => exact plain rfl
  | perm256 => exact plain rfl
  | perm512 => exact plain rfl
  | dm256 => exact plain rfl
  | dm512 => exact plain rfl
  | hashInit j => exact slot (of_decide_eq_true h) rfl
  | hashUpdate j => exact slot (of_decide_eq_true h) rfl
  | hashFinal j => exact slot (of_decide_eq_true h) rfl
  | hash => exact plain rfl

end

end Sys2Proof

namespace Sys2Proof.Machine

/-! ## The response of a request -/

/-- No command is turned away with `OK`. -/
theorem TurnedAway.ne_ok {i : Instr} {s : State} {e : Status} (h : TurnedAway i s e) : e ≠ .ok := by
  cases h <;> simp

/-- How a command ends: turned away with an empty result and nothing written, or `OK`, from a state with the port
untouched, with the result length of its row (R85, R86). -/
inductive Answers (i : Instr) (s : State) : Outcome → Prop where
  | away (e : Status) (he : e ≠ .ok) : Answers i s (.next (s.respond e []))
  | done (u : State) (res : Bytes) (hreq : u.requests = s.requests) (hresp : u.responses = s.responses)
      (hlen : res.length = i.resultLength) : Answers i s (.next (u.respond .ok res))

/-- Either way there is exactly one response, and the request leaves the port (R86). -/
theorem Answers.one_response {i : Instr} {s : State} {o : Outcome} (h : Answers i s o) :
    ∃ t resp, o = .next t ∧ t.requests = s.requests.tail ∧ t.responses = s.responses ++ [resp] ∧
      (resp.status ≠ .ok → resp.result = []) ∧ (resp.status = .ok → resp.result.length = i.resultLength) := by
  cases h with
  | away e he => exact ⟨_, ⟨e, []⟩, rfl, rfl, rfl, fun _ => rfl, fun hok => absurd hok he⟩
  | done u res hreq hresp hlen =>
    exact ⟨_, ⟨.ok, res⟩, rfl, congrArg List.tail hreq, congrArg (· ++ _) hresp,
      fun hne => absurd rfl hne, fun _ => hlen⟩

/-- A command of a fixed payload length checks it and responds. -/
theorem requireLength_answers {i : Instr} {s : State} {n : Nat} {res : Bytes} (hlen : res.length = i.resultLength) :
    Answers i s (requireLength n s (respondOk res s)) := by
  by_cases h : s.payload.length = n
  · rw [requireLength_of_eq h]
    exact .done s res rfl rfl hlen
  · rw [requireLength_of_ne h]
    exact .away _ (by simp)

/-- Every command ends in one of the two ways. -/
theorem exec_answers (i : Instr) (s : State) : Answers i s (exec i s) := by
  cases i with
  | enc => exact requireLength_answers Vector.length_toList
  | encLast => exact requireLength_answers Vector.length_toList
  | perm256 => exact requireLength_answers Vector.length_toList
  | perm512 => exact requireLength_answers Vector.length_toList
  | dm256 => exact requireLength_answers Vector.length_toList
  | dm512 => exact requireLength_answers Vector.length_toList
  | hashInit j =>
    rcases execHashInit_cases j s with ⟨_, _, _, h⟩ | ⟨e, he, h⟩ <;> rw [h]
    · exact .done _ _ rfl rfl rfl
    · exact .away e he.ne_ok
  | hashUpdate j =>
    rcases execHashUpdate_cases j s with ⟨_, _, _, h⟩ | ⟨e, he, h⟩ <;> rw [h]
    · exact .done _ _ rfl rfl rfl
    · exact .away e he.ne_ok
  | hashFinal j =>
    rcases execHashFinal_cases j s with ⟨_, _, _, _, h⟩ | ⟨e, he, h⟩ <;> rw [h]
    · exact .done _ _ rfl rfl Vector.length_toList
    · exact .away e he.ne_ok
  | hash => exact .done s _ rfl rfl Vector.length_toList

/-! ## The words the assembler spells -/

/-- A request that an engine with `n` slots takes: its word decodes and its payload has the length its command takes
(R85, R88). -/
def Request.Legal (n : Nat) (r : Request) : Prop :=
  ∃ i, decode n r.cmd = .ok i ∧ ∀ m, i.payloadLength = some m → r.payload.length = m

/-- The word of a well-formed command with a payload of its length is legal. -/
theorem legal_encode {n : Nat} {i : Instr} {p : Bytes} (hi : i.wellFormed n = true)
    (hp : ∀ m, i.payloadLength = some m → p.length = m) : Request.Legal n ⟨encode i, p⟩ :=
  ⟨i, decode_encode hi, hp⟩

/-- A statement of fixed form spells its one request, or is refused. -/
theorem spell_eq_some {ok : Bool} {i : Instr} {p : Bytes} {rs : List Request} :
    spell ok i p = some rs ↔ ok = true ∧ rs = [⟨encode i, p⟩] := by
  cases ok <;> simp [spell, eq_comm]

/-- What a statement of fixed form spells is legal, if its check enforces the command's payload length. -/
theorem legal_of_spell {n : Nat} {ok : Bool} {i : Instr} {p : Bytes} {rs : List Request} (h : spell ok i p = some rs)
    (hi : i.wellFormed n = true) (hp : ok = true → ∀ m, i.payloadLength = some m → p.length = m) :
    ∀ r ∈ rs, r.Legal n := by
  obtain ⟨hok, rfl⟩ := spell_eq_some.1 h
  exact List.forall_mem_singleton.2 (legal_encode hi (hp hok))

section
variable {n j : Nat}

/-- The slot byte of a statement names a slot no higher than the statement's. -/
theorem decide_slotByte_lt (h : j < n) : decide ((BitVec.ofNat 8 j).toNat < n) = true :=
  decide_eq_true ((Nat.mod_le _ _).trans_lt h)

/-- A HASH_UPDATE takes any payload (R85). -/
theorem legal_updateRequests (h : j < n) (ps : List Bytes) : ∀ r ∈ updateRequests j ps, r.Legal n :=
  List.forall_mem_map.2 fun _ _ => legal_encode (decide_slotByte_lt h) (by simp [Instr.payloadLength])

/-- Every request of an accepted statement is legal, but for `.raw`, on an engine that has the slot the statement
names. -/
theorem legal_of_assemble {st : Stmt} {rs : List Request} (h : st.assemble = some rs) (hraw : ∀ w p, st ≠ .raw w p)
    (hslot : ∀ j, (st = .hashInit j ∨ st = .hashFinal j ∨
      (∃ d, st = .hashUpdate j d ∨ st = .digest j d ∨ st = .hashUpdateLong j d)) → j < n) :
    ∀ r ∈ rs, r.Legal n := by
  cases st with
  | enc a b => exact legal_of_spell h rfl (by simp +contextual [Instr.payloadLength])
  | encLast a b => exact legal_of_spell h rfl (by simp +contextual [Instr.payloadLength])
  | perm256 a => exact legal_of_spell h rfl (by simp +contextual [Instr.payloadLength])
  | perm512 a => exact legal_of_spell h rfl (by simp +contextual [Instr.payloadLength])
  | dm256 a => exact legal_of_spell h rfl (by simp +contextual [Instr.payloadLength])
  | dm512 a => exact legal_of_spell h rfl (by simp +contextual [Instr.payloadLength])
  | hashInit j =>
    exact legal_of_spell h (decide_slotByte_lt (hslot j (by simp))) (by simp [Instr.payloadLength])
  | hashUpdate j d =>
    exact legal_of_spell h (decide_slotByte_lt (hslot j (by simp))) (by simp [Instr.payloadLength])
  | hashFinal j =>
    exact legal_of_spell h (decide_slotByte_lt (hslot j (by simp))) (by simp [Instr.payloadLength])
  | hash d => exact legal_of_spell h rfl (by simp [Instr.payloadLength])
  | raw w p => exact absurd rfl (hraw w p)
  | digest j d =>
    have hj : j < n := hslot j (by simp)
    obtain ⟨-, hrs⟩ := Option.ite_none_right_eq_some.1 h
    obtain rfl := Option.some.inj hrs
    have init : Request.Legal n ⟨encode (.hashInit (.ofNat 8 j)), []⟩ :=
      legal_encode (decide_slotByte_lt hj) (by simp [Instr.payloadLength])
    have final : Request.Legal n ⟨encode (.hashFinal (.ofNat 8 j)), []⟩ :=
      legal_encode (decide_slotByte_lt hj) (by simp [Instr.payloadLength])
    have update := legal_updateRequests hj [d]
    exact List.forall_mem_append.2 ⟨List.forall_mem_append.2 ⟨List.forall_mem_singleton.2 init, update⟩,
      List.forall_mem_singleton.2 final⟩
  | hashUpdateLong j d =>
    obtain ⟨-, hrs⟩ := Option.ite_none_right_eq_some.1 h
    obtain rfl := Option.some.inj hrs
    exact legal_updateRequests (hslot j (by simp)) _

/-- A statement that names a slot of 256 or more is refused (R93). -/
theorem assemble_eq_none_of_slot (hj : 256 ≤ j) (d : Bytes) :
    ∀ st ∈ [Stmt.hashInit j, .hashUpdate j d, .hashFinal j, .digest j d, .hashUpdateLong j d],
      st.assemble = none := by
  simp [Stmt.assemble, spell, Nat.not_lt.2 hj]

/-- The slot byte in place, as the number of the slot in place (R90). -/
theorem setWidth_slotByte (hj : j < 256) : (BitVec.ofNat 8 j).setWidth 32 = BitVec.ofNat 32 j := by
  apply BitVec.eq_of_toNat_eq
  simp
  omega

/-- The word of a hash-context command on a slot a byte can name (R90). -/
theorem encode_slot {i : Instr} (hj : j < 256) (hi : i.ctx = .ofNat 8 j) :
    encode i = i.opcode.setWidth 32 ||| (BitVec.ofNat 32 j <<< 8) := by
  rw [encode, hi, setWidth_slotByte hj]

end

/-! ## A long update -/

section
variable {m : Nat}

/-- No data makes no piece. -/
theorem pieces_nil (fuel : Nat) : pieces m fuel [] = [] := by
  cases fuel <;> rfl

/-- Data left over gives one more piece, from its front. -/
theorem pieces_succ_of_ne_nil {d : Bytes} (h : d ≠ []) (fuel : Nat) :
    pieces m (fuel + 1) d = d.take m :: pieces m fuel (d.drop m) := by
  simp [pieces, h]

/-- No piece is longer than the limit. -/
theorem length_le_of_mem_pieces (fuel : Nat) (d : Bytes) : ∀ p ∈ pieces m fuel d, p.length ≤ m := by
  induction fuel generalizing d with
  | zero => simp [pieces]
  | succ fuel ih =>
    rcases eq_or_ne d [] with rfl | hd
    · simp [pieces_nil]
    · rw [pieces_succ_of_ne_nil hd]
      exact List.forall_mem_cons.2 ⟨List.length_take_le m d, ih _⟩

/-- Every piece before the last has exactly the limit's length: what follows it is not empty. -/
theorem length_eq_of_mem_dropLast_pieces (fuel : Nat) (d : Bytes) :
    ∀ p ∈ (pieces m fuel d).dropLast, p.length = m := by
  induction fuel generalizing d with
  | zero => simp [pieces]
  | succ fuel ih =>
    rcases eq_or_ne d [] with rfl | hd
    · simp [pieces_nil]
    rw [pieces_succ_of_ne_nil hd]
    rcases Nat.le_total d.length m with hm | hm
    · simp [List.drop_eq_nil_of_le hm, pieces_nil]
    · cases hps : pieces m fuel (d.drop m) with
      | nil => simp
      | cons q qs =>
        rw [List.dropLast_cons_cons, ← hps]
        exact List.forall_mem_cons.2 ⟨List.length_take_of_le hm, ih _⟩

/-- With enough pieces, they are the whole of the data. -/
theorem flatten_pieces (hm : 0 < m) (fuel : Nat) (d : Bytes) (h : d.length ≤ fuel) : (pieces m fuel d).flatten = d := by
  induction fuel generalizing d with
  | zero => simp [pieces, List.eq_nil_of_length_eq_zero (Nat.le_zero.1 h)]
  | succ fuel ih =>
    rcases eq_or_ne d [] with rfl | hd
    · simp [pieces_nil]
    · rw [pieces_succ_of_ne_nil hd, List.flatten_cons, ih _ (by simp; omega), List.take_append_drop]

end

section
variable (c : Stores)

/-- The chain over `p + q` blocks is the chain over `q` after the chain over `p`. -/
theorem chainBlocks_add (p q : Nat) (st : Block32) (d : Bytes) :
    chainBlocks c (p + q) st d = chainBlocks c q (chainBlocks c p st d) (d.drop (32 * p)) := by
  induction p generalizing st d with
  | zero => simp [chainBlocks_zero]
  | succ p ih =>
    rw [Nat.add_right_comm, chainBlocks_succ, ih, chainBlocks_succ, List.drop_drop, Nat.mul_succ, Nat.add_comm 32]

/-- `md_update` in one formula (R172): the chain over the whole blocks of buffer and data, and the bytes left after
them. -/
theorem mdUpdate_eq (ctx : Context) (d : Bytes) (h : ctx.buf.length < 32) :
    mdUpdate c ctx d =
      ⟨chainBlocks c ((ctx.buf ++ d).length / 32) ctx.state (ctx.buf ++ d),
        (ctx.buf ++ d).drop (32 * ((ctx.buf ++ d).length / 32)), ctx.totalLen + BitVec.ofNat 64 d.length⟩ := by
  by_cases short : ctx.buf.length + d.length < 32
  · have noBlock : (ctx.buf ++ d).length / 32 = 0 := Nat.div_eq_of_lt (List.length_append ▸ short)
    rw [noBlock, chainBlocks_zero]
    simp [mdUpdate, short]
  · have first : ctx.buf ++ d.take (32 - ctx.buf.length) = (ctx.buf ++ d).take 32 := by
      rw [List.take_append, List.take_of_length_le h.le]
    have rest : d.drop (32 - ctx.buf.length) = (ctx.buf ++ d).drop 32 := by
      rw [List.drop_append, List.drop_eq_nil_of_le h.le, List.nil_append]
    have count : (ctx.buf ++ d).length / 32 = ((ctx.buf ++ d).drop 32).length / 32 + 1 := by
      simp only [List.length_drop, List.length_append]; omega
    simp only [mdUpdate, if_neg short, first, rest, absorb_eq, chain_take]
    rw [count, chainBlocks_succ, List.drop_drop, Nat.mul_succ, Nat.add_comm 32]

/-- Updating with nothing changes nothing. -/
theorem mdUpdate_nil (ctx : Context) (h : ctx.buf.length < 32) : mdUpdate c ctx [] = ctx := by
  simp [mdUpdate, h]

/-- Two updates are one update with the joined data (R91, R181). -/
theorem mdUpdate_append (ctx : Context) (a b : Bytes) (h : ctx.buf.length < 32) :
    mdUpdate c (mdUpdate c ctx a) b = mdUpdate c ctx (a ++ b) := by
  have rem := length_buf_mdUpdate c ctx a h
  rw [mdUpdate_eq c (mdUpdate c ctx a) b (by omega), mdUpdate_eq c ctx a h, mdUpdate_eq c ctx (a ++ b) h]
  simp only [← List.append_assoc]
  generalize ctx.buf ++ a = A
  have le : 32 * (A.length / 32) ≤ A.length := Nat.mul_div_le _ _
  have left : A.drop (32 * (A.length / 32)) ++ b = (A ++ b).drop (32 * (A.length / 32)) :=
    (List.drop_append_of_le_length le).symm
  have count : (A ++ b).length / 32 = A.length / 32 + ((A ++ b).drop (32 * (A.length / 32))).length / 32 := by
    simp only [List.length_drop, List.length_append]; omega
  rw [left, count, chainBlocks_add, chainBlocks_append_left c _ _ _ _ le, List.drop_drop, Nat.mul_add]
  simp [BitVec.ofNat_add, BitVec.add_assoc]

/-- Updates piece by piece are one update with all of the data. -/
theorem foldl_mdUpdate (ps : List Bytes) (ctx : Context) (h : ctx.buf.length < 32) :
    ps.foldl (mdUpdate c) ctx = mdUpdate c ctx ps.flatten := by
  induction ps generalizing ctx with
  | nil => exact (mdUpdate_nil c ctx h).symm
  | cons p ps ih =>
    have rem := length_buf_mdUpdate c ctx p h
    rw [List.foldl_cons, ih _ (by omega), mdUpdate_append c ctx p _ h, List.flatten_cons]

end

/-- The payloads of the HASH_UPDATE requests are the pieces. -/
@[simp] theorem map_payload_updateRequests (j : Nat) (ps : List Bytes) :
    (updateRequests j ps).map Request.payload = ps := by
  simp [updateRequests, Function.comp_def]

end Sys2Proof.Machine

open Sys2Proof Sys2Proof.Machine

/-- Settles O6: one code a constructor. -/
theorem codesOfStatusLifecycleAndBackend : Obligations.CodesOfStatusLifecycleAndBackend := by
  unfold Obligations.CodesOfStatusLifecycleAndBackend
  refine ⟨by decide, ?status, by decide, by decide, ?backend⟩
  case status => intro st; cases st <;> decide
  case backend => intro b; cases b <;> decide

/-- Settles O3: the decoder fails on the four cases alone, and a failed word ends the step with the one response. -/
theorem illegalWordsRaiseIllegalCommand : Obligations.IllegalWordsRaiseIllegalCommand := by
  unfold Obligations.IllegalWordsRaiseIllegalCommand
  refine ⟨fun _ _ => decode_fails_iff, fun _ _ rsvd => .inr (.inl rsvd), fun s r rs hs hl illegal => ?_⟩
  obtain ⟨e, he⟩ := decode_fails_iff.2 illegal
  exact ⟨_, step_of_illegal hs hl he, rfl, rfl, congrArg List.tail hs, rfl⟩

/-- Settles O10: an illegal word is answered with an empty result, and a command as `exec_answers` says. -/
theorem oneResponsePerRequest : Obligations.OneResponsePerRequest := by
  unfold Obligations.OneResponsePerRequest
  intro s r rs hs hl
  cases hd : decode s.nCtx r.cmd with
  | error e =>
    exact ⟨_, _, step_of_illegal hs hl hd, congrArg List.tail hs, rfl, by simp, by simp⟩
  | ok i =>
    rw [step_of_command hs hl hd]
    obtain ⟨t, resp, ht, hreq, hresp, herr, hok⟩ := (exec_answers i s).one_response
    exact ⟨t, resp, ht, hreq.trans (congrArg List.tail hs), hresp, herr, fun h => ⟨i, rfl, hok h⟩⟩

/-- Settles O52: accepted statements by `legal_of_assemble`, the exact words by `encode_slot`, and the refusals by the
checks of each form. -/
theorem acceptedStatementsSpellLegalRequests : Obligations.AcceptedStatementsSpellLegalRequests := by
  unfold Obligations.AcceptedStatementsSpellLegalRequests
  refine ⟨fun n st rs => legal_of_assemble, fun j d hj => assemble_eq_none_of_slot hj d, fun _ _ => rfl,
    ?lanes, ?blocks32, ?blocks64, ?slots, fun _ => rfl, ?refusals⟩
  case lanes =>
    intro a b ha hb
    exact ⟨spell_eq_some.2 ⟨by simp [ha, hb], rfl⟩, spell_eq_some.2 ⟨by simp [ha, hb], rfl⟩⟩
  case blocks32 =>
    intro a ha
    exact ⟨spell_eq_some.2 ⟨by simp [ha], rfl⟩, spell_eq_some.2 ⟨by simp [ha], rfl⟩⟩
  case blocks64 =>
    intro a ha
    exact ⟨spell_eq_some.2 ⟨by simp [ha], rfl⟩, spell_eq_some.2 ⟨by simp [ha], rfl⟩⟩
  case slots =>
    intro j a hj
    have word : ∀ {i : Instr} {p : Bytes}, i.ctx = .ofNat 8 j →
        spell (j < 256) i p = some [⟨i.opcode.setWidth 32 ||| (BitVec.ofNat 32 j <<< 8), p⟩] := fun hi =>
      spell_eq_some.2 ⟨decide_eq_true hj, by rw [encode_slot hj hi]⟩
    exact ⟨word rfl, word rfl, word rfl⟩
  case refusals =>
    intro a b
    refine ⟨fun h => ?_, fun h => ?_, fun h => ?_⟩
    · have : ¬ (a.length = 16 ∧ b.length = 16) := by omega
      simp [Stmt.assemble, spell, this]
    · simp [Stmt.assemble, spell, h]
    · simp [Stmt.assemble, spell, h]

/-- Settles O53: the pieces are the data cut at the limit, and `md_update` absorbs joined data in one go. -/
theorem pseudoInstructionsExpand : Obligations.PseudoInstructionsExpand := by
  unfold Obligations.PseudoInstructionsExpand
  refine ⟨fun j d hj => if_pos hj, fun j d hj hd => ⟨_, if_pos ⟨hj, hd⟩⟩, fun j d rs h => ?_⟩
  obtain ⟨-, hrs⟩ := Option.ite_none_right_eq_some.1 h
  obtain rfl := Option.some.inj hrs
  have limit : 0 < Config.maxPayload := Nat.succ_pos _
  have whole := flatten_pieces limit d.length d le_rfl
  rw [map_payload_updateRequests]
  refine ⟨List.forall_mem_map.2 fun _ _ => rfl, List.forall_mem_map.2 (length_le_of_mem_pieces _ d), ?_, whole,
    fun c ctx hctx => ?_⟩
  · rw [updateRequests, ← List.map_dropLast]
    exact List.forall_mem_map.2 (length_eq_of_mem_dropLast_pieces _ d)
  · rw [foldl_mdUpdate c _ ctx hctx, whole]

end

section
/-! PROOFS, family 40_round_primitives.md: the four AES steps against GF(2^8) (rules R100 to R103), the round primitives
(rules R105, R106) and the backends (rule R111). -/

namespace Sys2Proof.Machine

/-! ## The S-box (R100) -/

/-- The inverse of the linear map `sboxAffine`: eight bits under rotation are `F2[x] / (x^8 - 1)`, and there
`(1 + x + x^2 + x^3 + x^4) * (x + x^3 + x^6) = 1`. -/
def sboxAffineInv (b : Byte) : Byte := b.rotateLeft 1 ^^^ b.rotateLeft 3 ^^^ b.rotateLeft 6

theorem sboxAffineInv_sboxAffine : ∀ b : Byte, sboxAffineInv (sboxAffine b) = b := by
  decide +kernel

/-- The printed table is the algebraic S-box, entry by entry. -/
theorem aesSBox_eq_algebraicSBox : ∀ a : Byte, aesSBox[a.toNat] = algebraicSBox a := by
  decide +kernel

/-- The table determines the inverse, which is read back here instead of being computed as a power again. -/
theorem gfInv_eq_of_aesSBox (a : Byte) : gfInv a = sboxAffineInv (aesSBox[a.toNat] ^^^ 0x63) := by
  rw [aesSBox_eq_algebraicSBox, algebraicSBox, BitVec.xor_assoc, BitVec.xor_self, BitVec.xor_zero,
    sboxAffineInv_sboxAffine]

theorem gfMul_sboxAffineInv : ∀ a : Byte, a ≠ 0 → gfMul a (sboxAffineInv (aesSBox[a.toNat] ^^^ 0x63)) = 1 := by
  decide +kernel

theorem gfInv_zero : gfInv 0 = 0 := by
  decide +kernel

theorem gfMul_gfInv (a : Byte) (h : a ≠ 0) : gfMul a (gfInv a) = 1 := by
  rw [gfInv_eq_of_aesSBox, gfMul_sboxAffineInv a h]

/-! ## ShiftRows and MixColumns (R101 to R103) -/

section
variable (r c : Fin 4)

/-- Lane byte `r + 4c` lies in row `r` (R63). -/
theorem cell_row : (r.val + 4 * c.val) % 4 = r.val := by omega

/-- Lane byte `r + 4c` lies in column `c` (R63). -/
theorem cell_column : (r.val + 4 * c.val) / 4 = c.val := by omega

theorem shiftRows_cell (s : Block16) :
    (shiftRows s)[r.val + 4 * c.val] = s[r.val + 4 * ((c.val + r.val) % 4)] := by
  simp only [getElem_shiftRows, cell_row, cell_column]

end

/-- The byte map of ShiftRows, `SR_SRC`. -/
theorem shiftRows_eq (s : Block16) : shiftRows s =
    #v[s[0], s[5], s[10], s[15], s[4], s[9], s[14], s[3], s[8], s[13], s[2], s[7], s[12], s[1], s[6], s[11]] := by
  ext i hi : 1
  rw [getElem_shiftRows]
  interval_cases i <;> rfl

theorem gfMul_one_left : ∀ a : Byte, gfMul 1 a = a := by
  decide +kernel

theorem gfMul_two_left : ∀ a : Byte, gfMul 2 a = mul2 a := by
  decide +kernel

theorem gfMul_three_left : ∀ a : Byte, gfMul 3 a = mul3 a := by
  decide +kernel

/-- Multiplication by an entry of the matrix. -/
theorem gfMul_mixEntry (r k : Fin 4) (a : Byte) :
    gfMul (mixEntry r k) a = if k = r then mul2 a else if k = r + 1 then mul3 a else a := by
  unfold mixEntry
  split_ifs
  · exact gfMul_two_left a
  · exact gfMul_three_left a
  · exact gfMul_one_left a

/-- Row `r` of the matrix times column `c` of the lane, for the four rows in turn. -/
theorem mixColumns_cell (s : Block16) (r c : Fin 4) : (mixColumns s)[r.val + 4 * c.val] =
    gfMul (mixEntry r 0) s[4 * c.val] ^^^ gfMul (mixEntry r 1) s[4 * c.val + 1] ^^^
      gfMul (mixEntry r 2) s[4 * c.val + 2] ^^^ gfMul (mixEntry r 3) s[4 * c.val + 3] := by
  simp only [mixColumns, Vector.getElem_ofFn, cell_row, cell_column]
  match r with
  | 0 => simp [gfMul_mixEntry]
  | 1 => simp [gfMul_mixEntry]
  | 2 => simp [gfMul_mixEntry]
  | 3 => simp [gfMul_mixEntry]

/-! ## The round primitives are the same on every backend (R105, R106, R111) -/

section
variable (c : Stores) (b : Backend)

theorem enc_eq (s k : Block16) : enc c s k = addRoundKey (mixColumns (shiftRows (subBytes c.sbox s))) k := by
  unfold enc
  cases c.backend with
  | backendA => rfl
  | backendB => rw [bRound_zero16]; rfl
  | backendSW => rfl

theorem encLast_eq (s k : Block16) : encLast c s k = addRoundKey (shiftRows (subBytes c.sbox s)) k := by
  unfold encLast
  cases c.backend with
  | backendA => rfl
  | backendB => rw [bRound_zero16]; rfl
  | backendSW => rfl

/-! So the backend drops out of every function of the stores: none reads it but through the two rounds. -/

@[simp] theorem enc_backend : enc { c with backend := b } = enc c := by
  funext s k
  rw [enc_eq, enc_eq]

@[simp] theorem encLast_backend : encLast { c with backend := b } = encLast c := by
  funext s k
  rw [encLast_eq, encLast_eq]

@[simp] theorem round256_backend : round256 { c with backend := b } = round256 c := by
  funext x i
  simp only [round256, enc_backend, encLast_backend]

@[simp] theorem round512_backend : round512 { c with backend := b } = round512 c := by
  funext x i
  simp only [round512, enc_backend, encLast_backend]

@[simp] theorem P256_backend : P256 { c with backend := b } = P256 c := by
  funext blk
  simp only [P256, perm256, round256_backend]

@[simp] theorem P512_backend : P512 { c with backend := b } = P512 c := by
  funext blk
  simp only [P512, perm512, round512_backend]

@[simp] theorem compress256_backend : compress256 { c with backend := b } = compress256 c := by
  funext blk
  simp only [compress256, P256_backend]

@[simp] theorem compress512_backend : compress512 { c with backend := b } = compress512 c := by
  funext blk
  simp only [compress512, feedForward512, P512_backend]

@[simp] theorem chain_backend : chain { c with backend := b } = chain c := by
  funext st d
  simp only [chain, compress512_backend]

@[simp] theorem absorb_backend (k : Nat) (st : Block32) (d : Bytes) :
    absorb { c with backend := b } k st d = absorb c k st d := by
  simp only [absorb_eq, chainBlocks, compress512_backend]

@[simp] theorem mdInit_backend : mdInit { c with backend := b } = mdInit c := rfl

@[simp] theorem mdUpdate_backend : mdUpdate { c with backend := b } = mdUpdate c := by
  funext ctx d
  simp only [mdUpdate, chain_backend, absorb_backend]

@[simp] theorem mdFinal_backend : mdFinal { c with backend := b } = mdFinal c := by
  funext ctx
  simp only [mdFinal, chain_backend]

@[simp] theorem mdHash_backend : mdHash { c with backend := b } = mdHash c := by
  funext d
  simp only [mdHash, mdInit_backend, mdUpdate_backend, mdFinal_backend]

end

/-! ## No command sees the backend (R111)

Each shared operation of the commands commutes with latching another backend; so does each command, and so does the step. -/

section
variable (s : State) (b : Backend)

@[simp] theorem State.withBackend_stores : (s.withBackend b).stores = { s.stores with backend := b } := rfl
@[simp] theorem State.withBackend_slots : (s.withBackend b).slots = s.slots := rfl
@[simp] theorem State.withBackend_requests : (s.withBackend b).requests = s.requests := rfl
@[simp] theorem State.withBackend_payload : (s.withBackend b).payload = s.payload := rfl
@[simp] theorem State.withBackend_fetch : (s.withBackend b).fetch = s.fetch := rfl

@[simp] theorem raiseError_withBackend (e : Status) :
    raiseError e (s.withBackend b) = mapNext (fun t => t.withBackend b) (raiseError e s) := rfl

@[simp] theorem respondOk_withBackend (res : Bytes) :
    respondOk res (s.withBackend b) = mapNext (fun t => t.withBackend b) (respondOk res s) := rfl

@[simp] theorem State.setSlot_withBackend (j : Nat) (c : Slot) :
    (s.withBackend b).setSlot j c = (s.setSlot j c).withBackend b := rfl

@[simp] theorem requireLength_withBackend (n : Nat) (k : Outcome) :
    requireLength n (s.withBackend b) (mapNext (fun t => t.withBackend b) k) =
      mapNext (fun t => t.withBackend b) (requireLength n s k) := by
  by_cases h : s.payload.length = n
  · rw [requireLength_of_eq h, requireLength_of_eq (s := s.withBackend b) h]
  · rw [requireLength_of_ne h, requireLength_of_ne (s := s.withBackend b) h]
    rfl

@[simp] theorem requireLive_withBackend (c : Slot) (k : Outcome) :
    requireLive c (s.withBackend b) (mapNext (fun t => t.withBackend b) k) =
      mapNext (fun t => t.withBackend b) (requireLive c s k) := by
  simp only [requireLive, raiseError_withBackend]
  split <;> rfl

@[simp] theorem withSlot_withBackend (j : BitVec 8) (k : Slot → Outcome) :
    withSlot j (s.withBackend b) (fun c => mapNext (fun t => t.withBackend b) (k c)) =
      mapNext (fun t => t.withBackend b) (withSlot j s k) := by
  simp only [withSlot, State.withBackend_slots, raiseError_withBackend]
  split <;> rfl

/-- A command responds the same bytes and writes the same slot: what it computes is the same on every backend (the
`_backend` lemmas), and each operation it is built of commutes with latching another (the `_withBackend` lemmas). -/
theorem exec_withBackend (i : Instr) :
    exec i (s.withBackend b) = mapNext (fun t => t.withBackend b) (exec i s) := by
  cases i with
  | enc => simp [exec, execEnc]
  | encLast => simp [exec, execEncLast]
  | perm256 => simp [exec, execPerm256]
  | perm512 => simp [exec, execPerm512]
  | dm256 => simp [exec, execDm256]
  | dm512 => simp [exec, execDm512]
  | hashInit j => simp [exec, execHashInit]
  | hashUpdate j => simp [exec, execHashUpdate]
  | hashFinal j => simp [exec, execHashFinal]
  | hash => simp [exec, execHash]

/-- The step fetches the same, and then refuses, waits, rejects or runs the same. -/
theorem step_withBackend : step (s.withBackend b) = mapNext (fun t => t.withBackend b) (step s) := by
  simp only [step, State.withBackend_fetch]
  cases s.fetch with
  | idle => rfl
  | tooLong => rfl
  | illegal => exact raiseError_withBackend s b .illegalCommand
  | command i => exact exec_withBackend s b i

end

end Sys2Proof.Machine

open Sys2Proof Sys2Proof.Machine

/-- Settles O22: the rounds are one function on every backend, so the step commutes with latching another. -/
theorem noResponseDependsOnTheBackend : Obligations.NoResponseDependsOnTheBackend := by
  unfold Obligations.NoResponseDependsOnTheBackend
  exact ⟨fun _ _ s k => ⟨enc_eq _ s k, encLast_eq _ s k⟩, step_withBackend⟩

/-- Settles O18: multiplication by 2 and 3 on all bytes, and the four rows of the matrix. -/
theorem mixColumnsIsTheMatrixProduct : Obligations.MixColumnsIsTheMatrixProduct := by
  unfold Obligations.MixColumnsIsTheMatrixProduct
  exact ⟨fun a => ⟨rfl, rfl, (gfMul_two_left a).symm, (gfMul_three_left a).symm⟩, mixColumns_cell⟩

/-- Settles O16: the table against the algebraic S-box on all bytes, and the inverse read back from the table. -/
theorem sBoxIsTheAesSBox : Obligations.SBoxIsTheAesSBox := by
  unfold Obligations.SBoxIsTheAesSBox
  exact ⟨getElem_subBytes aesSBox, aesSBox_eq_algebraicSBox, gfInv_zero, gfMul_gfInv⟩

/-- Settles O17: the cells of ShiftRows by row and column, and its bytes in order. -/
theorem shiftRowsIsTheByteMap : Obligations.ShiftRowsIsTheByteMap := by
  unfold Obligations.ShiftRowsIsTheByteMap
  exact ⟨fun s r c => shiftRows_cell r c s, shiftRows_eq⟩

/-- Settles O19: the composition each backend selects is the AES round. -/
theorem roundPrimitivesAreTheAesRounds : Obligations.RoundPrimitivesAreTheAesRounds := by
  unfold Obligations.RoundPrimitivesAreTheAesRounds
  exact fun c s k => ⟨enc_eq c s k, encLast_eq c s k⟩

end

section
/-! PROOFS, family 41_permutations.md: the rounds of the two permutations (rules R131, R132, R134, R135), the
constants they read (rule R130), and the commands PERM256 and PERM512 (rules R133, R137 to R139). -/

namespace Sys2Proof.Machine

/-! ## The lanes that take the constant -/

section
variable (c : Stores) (i : Fin 15)

/-- The constant of a Permutation-256 round goes into the lane that held `b` (R131). -/
theorem getElem_round256_b (x : Vector Block16 2) :
    (round256 c x i)[(i.val + 1) % 2] = enc c (enc c x[i.val % 2] c.rc[i.val]) x[(i.val + 1) % 2] := by
  have a_ne_b : i.val % 2 ≠ (i.val + 1) % 2 := by omega
  simp only [round256, Vector.getElem_set_ne _ _ a_ne_b, Vector.getElem_set_self]

/-- The constant of a Permutation-512 round goes into the lane that held `c` (R134). -/
theorem getElem_round512_c (x : Vector Block16 4) :
    (round512 c x i)[(i.val + 2) % 4] = enc c (encLast c x[(i.val + 2) % 4] c.rc[i.val]) zero16 := by
  simp only [round512, Vector.getElem_set_self]

end

/-! ## What reads no constant, and what reads one (R130) -/

section
variable (c : Stores) (rc : Vector Block16 15)

@[simp] theorem enc_constants : enc { c with rc := rc } = enc c := rfl

@[simp] theorem encLast_constants : encLast { c with rc := rc } = encLast c := rfl

/-- A round of Permutation-256 reads its own constant alone. -/
theorem round256_constants (x : Vector Block16 2) {i : Fin 15} (h : rc[i.val] = c.rc[i.val]) :
    round256 { c with rc := rc } x i = round256 c x i := by
  simp only [round256, enc_constants, encLast_constants, h]

/-- A round of Permutation-512 reads its own constant alone. -/
theorem round512_constants (x : Vector Block16 4) {i : Fin 15} (h : rc[i.val] = c.rc[i.val]) :
    round512 { c with rc := rc } x i = round512 c x i := by
  simp only [round512, enc_constants, encLast_constants, h]

/-- The rounds of Permutation-256 end before round 10 (R133). -/
theorem lt_ten_of_mem_rounds256 : ∀ i ∈ rounds256, i.val < 10 := by decide

/-- So Permutation-256 reads ten constants. -/
theorem perm256_constants (h : ∀ (i : Nat) (_ : i < 10), rc[i] = c.rc[i]) (x : Vector Block16 2) :
    perm256 { c with rc := rc } x = perm256 c x :=
  List.foldl_ext _ _ x fun y i hi => round256_constants c rc y (h i (lt_ten_of_mem_rounds256 i hi))

end

/-! ## The checks commute with a change they do not see -/

section
variable {f : State → State} {s : State} (hr : ∀ e res, (f s).respond e res = f (s.respond e res))
include hr

/-- The length check sees the payload alone. -/
theorem requireLength_mapNext (hp : (f s).payload = s.payload) (n : Nat) (k : Outcome) :
    requireLength n (f s) (mapNext f k) = mapNext f (requireLength n s k) := by
  by_cases h : s.payload.length = n
  · rw [requireLength_of_eq h, requireLength_of_eq (hp ▸ h)]
  · rw [requireLength_of_ne h, requireLength_of_ne (hp ▸ h), hr, mapNext]

/-- The slot check sees the slot it names alone. -/
theorem withSlot_mapNext {j : BitVec 8} (hs : (f s).slots[j.toNat]? = s.slots[j.toNat]?) (k : Slot → Outcome) :
    withSlot j (f s) (fun c => mapNext f (k c)) = mapNext f (withSlot j s k) := by
  cases hc : s.slots[j.toNat]? with
  | none => rw [withSlot_of_none hc, withSlot_of_none (hs.trans hc), hr, mapNext]
  | some c => rw [withSlot_of_some hc, withSlot_of_some (hs.trans hc)]

end

section
variable (s : State) (rc : Vector Block16 15)

/-- The length check does not see the table. -/
theorem requireLength_withConstants (n : Nat) (k : Outcome) :
    requireLength n (s.withConstants rc) (mapNext (fun t => t.withConstants rc) k) =
      mapNext (fun t => t.withConstants rc) (requireLength n s k) :=
  requireLength_mapNext (f := fun t => t.withConstants rc) (fun _ _ => rfl) rfl n k

theorem exec_enc_withConstants :
    exec .enc (s.withConstants rc) = mapNext (fun t => t.withConstants rc) (exec .enc s) :=
  requireLength_withConstants s rc 32 (respondOk _ s)

theorem exec_encLast_withConstants :
    exec .encLast (s.withConstants rc) = mapNext (fun t => t.withConstants rc) (exec .encLast s) :=
  requireLength_withConstants s rc 32 (respondOk _ s)

theorem exec_hashInit_withConstants (j : BitVec 8) :
    exec (.hashInit j) (s.withConstants rc) = mapNext (fun t => t.withConstants rc) (exec (.hashInit j) s) := by
  have created := requireLength_withConstants s rc 0
    (respondOk [] (s.setSlot j.toNat (Slot.ofContext .fresh (mdInit s.stores))))
  exact (congrArg (fun k => withSlot j (s.withConstants rc) fun _ => k) created).trans
    (withSlot_mapNext (f := fun t => t.withConstants rc) (fun _ _ => rfl) rfl _)

end

/-! ## Two tables that differ at one constant (R130)

On a lane of one repeated byte both round primitives are the S-box entry of that byte XOR the key, so two constants of
one repeated byte are told apart by two S-box entries. -/

theorem subBytes_rep (sbox : Block 256) (v : Byte) : subBytes sbox (rep v 16) = rep sbox[v.toNat] 16 := by
  ext i hi : 1
  simp

theorem shiftRows_rep (v : Byte) : shiftRows (rep v 16) = rep v 16 := by
  ext i hi : 1
  simp

/-- A row of the matrix sums to 1: `mul2 v ^ mul3 v = v`, and the two `v` of the row cancel. -/
theorem mixColumns_rep (v : Byte) : mixColumns (rep v 16) = rep v 16 := by
  ext i hi : 1
  simp only [mixColumns, Vector.getElem_ofFn, getElem_rep, mul3, mul2]
  split
  all_goals grind

theorem enc_rep (c : Stores) (v : Byte) (k : Block16) :
    enc c (rep v 16) k = xorBlock (rep c.sbox[v.toNat] 16) k := by
  rw [enc_eq, subBytes_rep, shiftRows_rep, mixColumns_rep, addRoundKey]

theorem encLast_rep (c : Stores) (v : Byte) (k : Block16) :
    encLast c (rep v 16) k = xorBlock (rep c.sbox[v.toNat] 16) k := by
  rw [encLast_eq, subBytes_rep, shiftRows_rep, addRoundKey]

theorem xorBlock_rep (v w : Byte) (n : Nat) : xorBlock (rep v n) (rep w n) = rep (v ^^^ w) n := by
  ext i hi : 1
  simp

theorem enc_rep_zero16 (c : Stores) (v : Byte) : enc c (rep v 16) zero16 = rep c.sbox[v.toNat] 16 := by
  rw [enc_rep, xorBlock_zero16]

theorem enc_zero16_rep (c : Stores) (w : Byte) : enc c zero16 (rep w 16) = rep (c.sbox[0] ^^^ w) 16 :=
  (enc_rep c 0 _).trans (xorBlock_rep _ _ _)

theorem encLast_zero16_rep (c : Stores) (w : Byte) : encLast c zero16 (rep w 16) = rep (c.sbox[0] ^^^ w) 16 :=
  (encLast_rep c 0 _).trans (xorBlock_rep _ _ _)

/-- The byte that fills the constant's lane after a round on zero lanes whose constant repeats the byte `w`. -/
def constantByte (sbox : Block 256) (w : Byte) : Byte := sbox[(sbox[0] ^^^ w).toNat]

section
variable {c : Stores} {i : Fin 15} {w : Byte} (h : c.rc[i.val] = rep w 16)
include h

theorem getElem_round256_zero16 :
    (round256 c (Vector.replicate 2 zero16) i)[(i.val + 1) % 2] = rep (constantByte c.sbox w) 16 := by
  rw [getElem_round256_b, Vector.getElem_replicate, Vector.getElem_replicate, h, enc_zero16_rep, enc_rep_zero16,
    constantByte]

theorem getElem_round512_zero16 :
    (round512 c (Vector.replicate 4 zero16) i)[(i.val + 2) % 4] = rep (constantByte c.sbox w) 16 := by
  rw [getElem_round512_c, Vector.getElem_replicate, h, encLast_zero16_rep, enc_rep_zero16, constantByte]

end

/-- The AES tables with every constant zero. -/
def zeroConstants : Stores := { Stores.reset with rc := Vector.replicate 15 zero16 }

/-- The same constants but for `RC[i]`, which repeats the byte 1. -/
def oneConstant (i : Fin 15) : Vector Block16 15 := zeroConstants.rc.set i.val (rep 1 16)

section
variable (i : Fin 15)

theorem getElem_zeroConstants : zeroConstants.rc[i.val] = rep 0 16 := Vector.getElem_replicate _

theorem getElem_oneConstant_self : (oneConstant i)[i.val] = rep 1 16 := Vector.getElem_set_self _

theorem getElem_oneConstant_ne {k : Nat} (hk : k < 15) (hne : k ≠ i.val) :
    (oneConstant i)[k] = zeroConstants.rc[k] := Vector.getElem_set_ne _ _ hne.symm

/-- The S-box tells the two constants apart. -/
theorem rep_constantByte_ne : rep (constantByte aesSBox 1) 16 ≠ rep (constantByte aesSBox 0) 16 := by
  decide +kernel

theorem round256_oneConstant_ne :
    round256 { zeroConstants with rc := oneConstant i } (Vector.replicate 2 zero16) i ≠
      round256 zeroConstants (Vector.replicate 2 zero16) i := by
  intro same
  have lane := getElem_round256_zero16 (c := { zeroConstants with rc := oneConstant i }) (getElem_oneConstant_self i)
  rw [same, getElem_round256_zero16 (getElem_zeroConstants i)] at lane
  exact rep_constantByte_ne lane.symm

theorem round512_oneConstant_ne :
    round512 { zeroConstants with rc := oneConstant i } (Vector.replicate 4 zero16) i ≠
      round512 zeroConstants (Vector.replicate 4 zero16) i := by
  intro same
  have lane := getElem_round512_zero16 (c := { zeroConstants with rc := oneConstant i }) (getElem_oneConstant_self i)
  rw [same, getElem_round512_zero16 (getElem_zeroConstants i)] at lane
  exact rep_constantByte_ne lane.symm

end

end Sys2Proof.Machine

open Sys2Proof Sys2Proof.Machine

/-- Settles O25: the role indices `i mod 2` and `(i + 1) mod 2` of an even and of an odd round. -/
theorem round256AlternatesItsLanes : Obligations.Round256AlternatesItsLanes := by
  unfold Obligations.Round256AlternatesItsLanes
  intro c x i
  match x with
  | ⟨⟨[x0, x1]⟩, _⟩ =>
    refine ⟨fun even => ?_, fun odd => ?_⟩
    · simp [round256, Nat.add_mod i.val, even]
    · simp [round256, Nat.add_mod i.val, odd]

/-- Settles O26: the role indices `(i + n) mod 4` of each of the four rotations. -/
theorem round512RotatesItsLanes : Obligations.Round512RotatesItsLanes := by
  unfold Obligations.Round512RotatesItsLanes
  intro k x i
  match x with
  | ⟨⟨[x0, x1, x2, x3]⟩, _⟩ =>
    refine ⟨fun r => ?_, fun r => ?_, fun r => ?_, fun r => ?_⟩
    all_goals simp [round512, Nat.add_mod i.val, r]

/-- Settles O27: the rounds read one entry by their definition, the tables `zeroConstants` and `oneConstant i` show that
they do read it, and the three commands are built of operations that see no table. -/
theorem roundConstantsReadByRound : Obligations.RoundConstantsReadByRound := by
  unfold Obligations.RoundConstantsReadByRound
  refine ⟨fun c rc s k => ⟨rfl, rfl⟩,
    fun c rc i h => ⟨fun x => round256_constants c rc x h, fun x => round512_constants c rc x h⟩,
    fun i => ⟨zeroConstants, oneConstant i, fun k hk => getElem_oneConstant_ne i hk,
      ⟨_, round256_oneConstant_ne i⟩, ⟨_, round512_oneConstant_ne i⟩⟩,
    perm256_constants, fun i j s rc hi => ?commands⟩
  case commands =>
    simp only [List.mem_cons, List.not_mem_nil, or_false] at hi
    rcases hi with rfl | rfl | rfl
    · exact exec_enc_withConstants s rc
    · exact exec_encLast_withConstants s rc
    · exact exec_hashInit_withConstants s rc j

/-- Settles O28: the lanes of the operand are its two slices, and those of the result come out in order. -/
theorem perm256Responds : Obligations.Perm256Responds := by
  unfold Obligations.Perm256Responds
  refine fun s => ⟨fun h => ?_, fun h => requireLength_of_ne h⟩
  rw [exec, execPerm256, requireLength_of_eq h, P256, toList_concat2, lanesOf32_slice]
  rfl

/-- Settles O29: the lanes of the operand are its four slices, and those of the result come out reindexed. -/
theorem perm512Responds : Obligations.Perm512Responds := by
  unfold Obligations.Perm512Responds
  refine fun s => ⟨fun h => ?_, fun h => requireLength_of_ne h⟩
  rw [exec, execPerm512, requireLength_of_eq h, P512, toList_concat4, lanesOf64_slice, perm512,
    getElem_reindex512_zero, getElem_reindex512_one, getElem_reindex512_two, getElem_reindex512_three]
  rfl

end

section
/-! PROOFS, family 42_compressors.md: the feed-forward by lanes (rules R150, R151) and the truncation by words
(rule R152). -/

namespace Sys2Proof.Machine

/-! ## The feed-forward, lane by lane (R150, R151) -/

/-- The XOR of two lane pairs is the pair of the lanes' XORs. -/
theorem xorBlock_concat2 (x y : Vector Block16 2) :
    xorBlock (concat2 x) (concat2 y) = concat2 (x.zipWith xorBlock y) := by
  ext i hi : 1
  simp

/-- The XOR of two lane quadruples is the quadruple of the lanes' XORs. -/
theorem xorBlock_concat4 (x y : Vector Block16 4) :
    xorBlock (concat4 x) (concat4 y) = concat4 (x.zipWith xorBlock y) := by
  ext i hi : 1
  simp

/-- `compress256` as its output lanes. -/
theorem compress256_eq_concat2 (c : Stores) (blk : Block32) :
    compress256 c blk = concat2 ((perm256 c (lanesOf32 blk)).zipWith xorBlock (lanesOf32 blk)) := by
  rw [← xorBlock_concat2, concat2_lanesOf32, compress256, P256]

/-- The feed-forward value as its lanes, the output of Permutation-512 being reindexed already. -/
theorem feedForward512_eq_concat4 (c : Stores) (blk : Block64) :
    feedForward512 c blk = concat4 ((perm512 c (lanesOf64 blk)).zipWith xorBlock (lanesOf64 blk)) := by
  rw [← xorBlock_concat4, concat4_lanesOf64, feedForward512, P512]

/-! ## The truncation, word by word (R152) -/

theorem concatWords_eq_flatten (w : Vector (Block 8) 4) : concatWords w = w.flatten := by
  ext i hi : 1
  rw [getElem_concatWords _ _ hi, Vector.getElem_flatten]

/-- The truncation is the bytes of its four words in order. -/
theorem toList_truncate512 (y : Block64) :
    (truncate512 y).toList =
      (wordOf y 1).toList ++ (wordOf y 3).toList ++ (wordOf y 4).toList ++ (wordOf y 6).toList := by
  rw [truncate512, concatWords_eq_flatten, toList_flatten]
  simp

/-- Word `k` is the bytes `8k` to `8k + 7` (R65). -/
theorem toList_wordOf (y : Block64) (k : Fin 8) : (wordOf y k).toList = (y.toList.drop (8 * k.val)).take 8 := by
  apply List.ext_getElem
  · simp only [Vector.length_toList, List.length_take, List.length_drop]
    omega
  · intro i h1 h2
    simp [Vector.getElem_toList]

/-- Word `k` of four lanes is a half of lane `k / 2`: the low half when `k` is even, the high half when it is odd. -/
theorem wordOf_concat4 (x : Vector Block16 4) (k : Fin 8) :
    (wordOf (concat4 x) k).toList = (x[k.val / 2].toList.drop (8 * (k.val % 2))).take 8 := by
  apply List.ext_getElem
  · simp only [Vector.length_toList, List.length_take, List.length_drop]
    omega
  · intro i h1 h2
    have hi : i < 8 := by simpa using h1
    have lane : (8 * k.val + i) / 16 = k.val / 2 := by omega
    have byte : (8 * k.val + i) % 16 = 8 * (k.val % 2) + i := by omega
    simp [Vector.getElem_toList, lane, byte]

/-- The truncation of four lanes keeps the high halves of the first two and the low halves of the last two. -/
theorem toList_truncate512_concat4 (x : Vector Block16 4) :
    (truncate512 (concat4 x)).toList =
      x[0].toList.drop 8 ++ x[1].toList.drop 8 ++ x[2].toList.take 8 ++ x[3].toList.take 8 := by
  simp [toList_truncate512, wordOf_concat4, List.take_of_length_le]

end Sys2Proof.Machine

open Sys2Proof Sys2Proof.Machine

/-- Settles O30: the XOR of the concatenated lanes is the concatenation of the lanes' XORs. -/
theorem compress256FeedsForward : Obligations.Compress256FeedsForward := by
  unfold Obligations.Compress256FeedsForward
  refine fun c blk => ⟨rfl, ?lanes⟩
  case lanes => simp only [compress256_eq_concat2, toList_concat2, Vector.getElem_zipWith]

/-- Settles O31: the feed-forward value by its lanes, and the truncation's four words, once as byte ranges of that value
and once as halves of its lanes. -/
theorem compress512FeedsForwardAndTruncates : Obligations.Compress512FeedsForwardAndTruncates := by
  unfold Obligations.Compress512FeedsForwardAndTruncates
  refine fun c blk => ⟨?lanes, ?ranges, ?halves⟩
  case lanes =>
    rw [← feedForward512, feedForward512_eq_concat4, toList_concat4]
    simp [perm512]
  case ranges =>
    simp only [compress512, toList_truncate512, toList_wordOf]
    rfl
  case halves =>
    rw [compress512, feedForward512_eq_concat4, toList_truncate512_concat4]
    simp [perm512]

end

section
/-! PROOFS, family 43_streaming_hash.md: what the three slot commands answer on a slot that exists (rules R170, R177 to
R179), the two ways to finalize (rule R174) and the length field of the last block (rule R173). -/

namespace Sys2Proof.Machine

/-! ## Which statuses are live (R203) -/

section
variable {st : Lifecycle}

theorem Lifecycle.ne_of_live (h : st.live = true) : st ≠ .noContext ∧ st ≠ .final := by
  revert h
  cases st <;> decide

theorem Lifecycle.ne_of_not_live (h : st.live = false) : st ≠ .fresh ∧ st ≠ .accum := by
  revert h
  cases st <;> decide

end

/-! ## What a slot command answers on a slot that exists (R177 to R179) -/

section
variable {s : State} {j : BitVec 8} {c : Slot} (hc : s.slots[j.toNat]? = some c)
include hc

theorem nCtx_lt_of_slot : j.toNat < s.nCtx := (List.getElem?_eq_some_iff.1 hc).1

theorem exec_hashInit_of_slot (hp : s.payload = []) :
    exec (.hashInit j) s =
      .next ((s.setSlot j.toNat (Slot.ofContext .fresh (mdInit s.stores))).respond .ok []) := by
  rw [exec, execHashInit, withSlot_of_some hc, requireLength_of_eq (List.length_eq_zero_iff.2 hp), respondOk]

theorem exec_hashUpdate_of_live (hl : c.status.live = true) :
    exec (.hashUpdate j) s =
      .next ((s.setSlot j.toNat (Slot.ofContext .accum (mdUpdate s.stores c.context s.payload))).respond .ok []) := by
  rw [exec, execHashUpdate, withSlot_of_some hc, requireLive_of_live hl, respondOk]

theorem exec_hashUpdate_of_not_live (hl : c.status.live = false) :
    exec (.hashUpdate j) s = .next (s.respond .invalidState []) := by
  rw [exec, execHashUpdate, withSlot_of_some hc, requireLive_of_not_live hl]

theorem exec_hashFinal_of_live (hp : s.payload = []) (hl : c.status.live = true) :
    exec (.hashFinal j) s =
      .next ((s.setSlot j.toNat { c with state := (mdFinal s.stores c.context).1.state, status := .final }).respond .ok
        (mdFinal s.stores c.context).2.toList) := by
  rw [exec, execHashFinal, withSlot_of_some hc, requireLength_of_eq (List.length_eq_zero_iff.2 hp),
    requireLive_of_live hl, respondOk]

theorem exec_hashFinal_of_not_live (hp : s.payload = []) (hl : c.status.live = false) :
    exec (.hashFinal j) s = .next (s.respond .invalidState []) := by
  rw [exec, execHashFinal, withSlot_of_some hc, requireLength_of_eq (List.length_eq_zero_iff.2 hp),
    requireLive_of_not_live hl]

end

/-- A command that moves the status of a slot is one of the three on that slot, and it responds `OK` (R170): any other
ending of `exec_cases` leaves the slot as it was. -/
theorem slotCommand_of_status_ne {i : Instr} {s t : State} {k : Nat} {c c' : Slot} (ht : exec i s = .next t)
    (hc : s.slots[k]? = some c) (hc' : t.slots[k]? = some c') (hne : c'.status ≠ c.status) :
    (∃ j : BitVec 8, j.toNat = k ∧ i ∈ [Instr.hashInit j, .hashUpdate j, .hashFinal j]) ∧
      ∃ result, t.responses = s.responses ++ [⟨.ok, result⟩] := by
  have moved : t.slots[k]? ≠ s.slots[k]? := fun same => by
    rw [hc, hc', Option.some_inj] at same
    exact hne (congrArg Slot.status same)
  rcases exec_cases i s with ⟨st, res, h⟩ | ⟨j, d, res, hi, h⟩
  all_goals obtain rfl := Host.Outcome.next.inj (ht.symm.trans h)
  · exact absurd rfl moved
  · have own : k = j.toNat := by_contra fun other => moved (State.getElem?_setSlot_ne other)
    exact ⟨⟨j, own.symm, hi⟩, res, rfl⟩

/-! ## Finalization (R174) -/

theorem mdFinal_of_lt {ctx : Context} (c : Stores) (h : ctx.buf.length < 24) :
    mdFinal c ctx = (ctx, chain c ctx.state (padOne ctx)) := if_pos h

theorem mdFinal_of_le {ctx : Context} (c : Stores) (h : 24 ≤ ctx.buf.length) :
    mdFinal c ctx = ({ ctx with state := chain c ctx.state (padFirst ctx) },
      chain c (chain c ctx.state (padFirst ctx)) (padSecond ctx)) := if_neg (Nat.not_lt.2 h)

/-- In either case the last block is 24 bytes of buffer and padding, then `LEN8` (R173). -/
theorem getLast?_finalBlocks (ctx : Context) :
    ∃ p : Bytes, p.length = 24 ∧ (finalBlocks ctx).getLast? = some (p ++ (len8 ctx.totalLen).toList) := by
  rcases Nat.lt_or_ge ctx.buf.length 24 with short | long
  · refine ⟨ctx.buf ++ [0x80] ++ List.replicate (23 - ctx.buf.length) 0x00, ?length, ?last⟩
    case length => simp only [List.length_append, List.length_singleton, List.length_replicate]; omega
    case last => simp [finalBlocks, padOne, short]
  · exact ⟨List.replicate 24 0x00, List.length_replicate, by simp [finalBlocks, padSecond, Nat.not_lt.2 long]⟩

/-! ## Reading a number most significant byte first (R13, R66) -/

/-- The number a byte sequence spells, most significant byte first. -/
def readBE (l : Bytes) : Nat := l.foldl (fun acc byte => 256 * acc + byte.toNat) 0

theorem readBE_concat (l : Bytes) (b : Byte) : readBE (l ++ [b]) = 256 * readBE l + b.toNat := by
  rw [readBE, List.foldl_concat, readBE]

/-- The first `m` bytes of `BE64(v)` spell the top `8 * m` bits of `v`. -/
theorem readBE_take_be64 (v : BitVec 64) (m : Nat) (hm : m ≤ 8) :
    readBE ((be64 v).toList.take m) = v.toNat / 256 ^ (8 - m) := by
  induction m with
  | zero => rw [Nat.sub_zero, Nat.div_eq_of_lt (by simpa using v.isLt)]; rfl
  | succ m ih =>
    have byte : (be64 v)[m].toNat = v.toNat / 256 ^ (7 - m) % 256 := by
      simp [Nat.shiftRight_eq_div_pow, Nat.pow_mul]
    have high : v.toNat / 256 ^ (8 - m) = v.toNat / 256 ^ (7 - m) / 256 := by
      rw [Nat.div_div_eq_div_mul, ← Nat.pow_succ, show 8 - m = (7 - m).succ by omega]
    rw [List.take_succ_eq_append_getElem (by simpa using hm), readBE_concat, ih (by omega), Vector.getElem_toList, byte,
      high, Nat.div_add_mod, show 8 - (m + 1) = 7 - m by omega]

/-- `BE64(v)` spells `v`. -/
theorem readBE_be64 (v : BitVec 64) : readBE (be64 v).toList = v.toNat := by
  simpa [List.take_of_length_le] using readBE_take_be64 v 8 le_rfl

end Sys2Proof.Machine

open Sys2Proof Sys2Proof.Machine

/-- Settles O37: the table by what the commands answer on a live slot and on any other, and that no status moves in any
other way by `slotCommand_of_status_ne`. -/
theorem lifecycleFollowsTheTable : Obligations.LifecycleFollowsTheTable := by
  unfold Obligations.LifecycleFollowsTheTable
  refine ⟨fun s j c hc => ?_, fun i s t k c c' => slotCommand_of_status_ne⟩
  have written (d : Slot) : (s.setSlot j.toNat d).slots[j.toNat]? = some d :=
    State.getElem?_setSlot_self (nCtx_lt_of_slot hc)
  refine ⟨fun hp => ?init, ?update, fun hp => ?final⟩
  case init =>
    exact ⟨_, _, exec_hashInit_of_slot hc hp, written _, rfl, rfl⟩
  case update =>
    cases hl : c.status.live with
    | true =>
      refine ⟨_, _, _, exec_hashUpdate_of_live hc hl, written _, rfl, ?_⟩
      simp [Lifecycle.ne_of_live hl, Slot.ofContext]
    | false =>
      refine ⟨_, _, _, exec_hashUpdate_of_not_live hc hl, hc, rfl, ?_⟩
      simp [Lifecycle.ne_of_not_live hl]
  case final =>
    cases hl : c.status.live with
    | true =>
      refine ⟨_, _, _, _, exec_hashFinal_of_live hc hp hl, written _, rfl, ?_⟩
      simp [Lifecycle.ne_of_live hl]
    | false =>
      refine ⟨_, _, _, _, exec_hashFinal_of_not_live hc hp hl, hc, rfl, ?_⟩
      simp [Lifecycle.ne_of_not_live hl]

/-- Settles O34: `mdUpdate_eq` is the formula for the context; `BUF_LEN` is the length of what is left. -/
theorem hashUpdateAbsorbsWholeBlocks : Obligations.HashUpdateAbsorbsWholeBlocks := by
  unfold Obligations.HashUpdateAbsorbsWholeBlocks
  intro s j c hc hl hbuf all k
  have left : (all.drop (32 * k)).length = all.length % 32 := by rw [List.length_drop]; omega
  rw [exec_hashUpdate_of_live hc hl, mdUpdate_eq s.stores c.context s.payload hbuf, Slot.ofContext, ← left]
  rfl

/-- Settles O35: `md_final` by the number of buffered bytes. -/
theorem hashFinalPadsAndRespondsTheDigest : Obligations.HashFinalPadsAndRespondsTheDigest := by
  unfold Obligations.HashFinalPadsAndRespondsTheDigest
  refine fun s j c hc hl hp => ⟨fun short => ?one, fun long => ?two⟩
  case one =>
    rw [exec_hashFinal_of_live hc hp hl, mdFinal_of_lt s.stores (ctx := c.context) short]
    rfl
  case two =>
    rw [exec_hashFinal_of_live hc hp hl, mdFinal_of_le s.stores (ctx := c.context) long]
    rfl

/-- Settles O38: the last block ends in `LEN8`, and `BE64` spells its number. -/
theorem lengthFieldIsTheBitCount : Obligations.LengthFieldIsTheBitCount := by
  unfold Obligations.LengthFieldIsTheBitCount
  intro ctx _
  obtain ⟨p, hp, last⟩ := getLast?_finalBlocks ctx
  refine ⟨_, last, by simp [hp], ?count⟩
  case count =>
    rw [← hp, List.drop_left, ← readBE, len8, readBE_be64, BitVec.toNat_mul]
    rfl

/-- Settles O33: the slot exists, and its context is `md_init`'s. -/
theorem hashInitCreatesAFreshContext : Obligations.HashInitCreatesAFreshContext := by
  unfold Obligations.HashInitCreatesAFreshContext
  exact fun s j hj hp => exec_hashInit_of_slot (List.getElem?_eq_getElem hj) hp

/-- Settles O36: HASH checks nothing, and `md_hash` is the three context functions in turn. -/
theorem hashRespondsTheOneShotDigest : Obligations.HashRespondsTheOneShotDigest := by
  unfold Obligations.HashRespondsTheOneShotDigest
  intro s
  rw [exec, execHash, respondOk, mdHash]

end

section
/-! PROOFS, family 60_exceptions.md: the order in which a command's checks apply (rules R201 to R203, R205, R206) and
what an error leaves unwritten (rule R204). -/

namespace Sys2Proof.Machine

/-- A word that decodes names a slot that exists (R83). -/
theorem wellFormed_of_decode {n : Nat} {w : CommandWord} {i : Instr} (h : decode n w = .ok i) :
    i.wellFormed n = true := by
  unfold decode at h
  split at h
  next => exact nomatch h
  next =>
    split at h
    case h_7 | h_8 | h_9 =>
      obtain ⟨hlt, rfl⟩ := decodeSlot_eq_ok.1 h
      exact decide_eq_true hlt
    case h_11 => exact nomatch h
    all_goals
      obtain ⟨-, rfl⟩ := decodePlain_eq_ok.1 h
      rfl

/-! ## The status of a response (R205)

Each check of a command puts its error in front of the status the rest of the command ends with. -/

/-- The outcome is a next state with one more response, of status `st`. -/
def EndsWith (s : State) (st : Status) (o : Outcome) : Prop :=
  ∃ t result, o = .next t ∧ t.responses = s.responses ++ [⟨st, result⟩]

section
variable {s : State} {st : Status} {k : Outcome}

theorem respond_endsWith (result : Bytes) : EndsWith s st (.next (s.respond st result)) := ⟨_, result, rfl, rfl⟩

theorem respondOk_setSlot_endsWith (result : Bytes) (j : Nat) (c : Slot) :
    EndsWith s .ok (respondOk result (s.setSlot j c)) := ⟨_, result, rfl, rfl⟩

/-- `InvalidLength` goes before whatever follows the length check (R202). -/
theorem requireLength_endsWith (n : Nat) (hk : EndsWith s st k) :
    EndsWith s (if s.payload.length != n then .invalidLength else st) (requireLength n s k) := by
  split
  next h => rw [requireLength_of_ne (bne_iff_ne.1 h)]; exact respond_endsWith []
  next h => rwa [requireLength_of_eq (by simpa using h)]

/-- `InvalidState` goes before whatever follows the state check (R203). -/
theorem requireLive_endsWith (c : Slot) (hk : EndsWith s st k) :
    EndsWith s (if !c.status.live then .invalidState else st) (requireLive c s k) := by
  split
  next h => rw [requireLive_of_not_live (by simpa using h)]; exact respond_endsWith []
  next h => rwa [requireLive_of_live (by simpa using h)]

/-- A command of a fixed payload length that uses no slot checks that length alone. -/
theorem requireLength_respondOk_endsWith (n : Nat) (result : Bytes) :
    EndsWith s (if s.payload.length != n then .invalidLength else .ok) (requireLength n s (respondOk result s)) :=
  requireLength_endsWith n (respond_endsWith result)

end

section
variable {s : State} {j : BitVec 8} {c : Slot} (hc : s.slots[j.toNat]? = some c)
include hc

theorem State.rejects_hashUpdate : s.rejects (.hashUpdate j) = !c.status.live := by simp [State.rejects, hc]

theorem State.rejects_hashFinal : s.rejects (.hashFinal j) = !c.status.live := by simp [State.rejects, hc]

end

/-- A decoded command ends with the status that is due: its checks are, in order, those `State.dueStatus` asks of it. -/
theorem exec_endsWith_dueStatus {s : State} {r : Request} {rs : List Request} {i : Instr} (hs : s.requests = r :: rs)
    (hd : decode s.nCtx r.cmd = .ok i) : EndsWith s (s.dueStatus r) (exec i s) := by
  have wf := wellFormed_of_decode hd
  have slot : ∀ {j : BitVec 8}, decide (j.toNat < s.nCtx) = true → ∃ c, s.slots[j.toNat]? = some c := fun h =>
    ⟨_, List.getElem?_eq_getElem (of_decide_eq_true h)⟩
  simp only [State.dueStatus, hd, ← State.payload_of_cons hs]
  cases i with
  | enc => exact requireLength_respondOk_endsWith 32 _
  | encLast => exact requireLength_respondOk_endsWith 32 _
  | perm256 => exact requireLength_respondOk_endsWith 32 _
  | perm512 => exact requireLength_respondOk_endsWith 64 _
  | dm256 => exact requireLength_respondOk_endsWith 32 _
  | dm512 => exact requireLength_respondOk_endsWith 64 _
  | hashInit j =>
    obtain ⟨c, hc⟩ := slot wf
    rw [exec, execHashInit, withSlot_of_some hc]
    exact requireLength_endsWith 0 (respondOk_setSlot_endsWith _ _ _)
  | hashUpdate j =>
    obtain ⟨c, hc⟩ := slot wf
    rw [exec, execHashUpdate, withSlot_of_some hc, State.rejects_hashUpdate hc]
    exact requireLive_endsWith c (respondOk_setSlot_endsWith _ _ _)
  | hashFinal j =>
    obtain ⟨c, hc⟩ := slot wf
    rw [exec, execHashFinal, withSlot_of_some hc, State.rejects_hashFinal hc]
    exact requireLength_endsWith 0 (requireLive_endsWith c (respondOk_setSlot_endsWith _ _ _))
  | hash => exact respond_endsWith _

/-! ## What an error leaves (R204) -/

/-- The one response a step added is the one it responded. -/
theorem eq_of_respond_responses {s u : State} {st : Status} {result : Bytes} {resp : Response}
    (hu : u.responses = s.responses) (h : (u.respond st result).responses = s.responses ++ [resp]) :
    resp = ⟨st, result⟩ := by
  rw [State.respond_responses, hu] at h
  exact (List.singleton_inj.1 (List.append_cancel_left h)).symm

/-- A step that answers a request with an error does nothing but respond it, with an empty result. -/
theorem eq_respond_of_step_error {s t : State} {resp : Response} (hne : s.requests ≠ []) (ht : step s = .next t)
    (hresp : t.responses = s.responses ++ [resp]) (herr : resp.status ≠ .ok) : t = s.respond resp.status [] := by
  obtain ⟨r, rs, hs⟩ := List.exists_cons_of_ne_nil hne
  rcases Nat.lt_or_ge Config.maxPayload r.payload.length with hl | hl
  · exact nomatch (step_of_tooLong hs hl).symm.trans ht
  cases hd : decode s.nCtx r.cmd with
  | error e =>
    obtain rfl := Host.Outcome.next.inj ((step_of_illegal hs hl hd).symm.trans ht)
    rw [eq_of_respond_responses rfl hresp]
  | ok i =>
    rw [step_of_command hs hl hd] at ht
    have ends := exec_answers i s
    rw [ht] at ends
    cases ends with
    | away e _ => rw [eq_of_respond_responses rfl hresp]
    | done u result _ hu _ => exact absurd (congrArg Response.status (eq_of_respond_responses hu hresp)) herr

end Sys2Proof.Machine

open Sys2Proof Sys2Proof.Machine

/-- Settles O11: an illegal word is answered before any check, and a command by its checks in order. -/
theorem responseStatusFollowsThePriority : Obligations.ResponseStatusFollowsThePriority := by
  unfold Obligations.ResponseStatusFollowsThePriority
  intro s r rs hs hl
  cases hd : decode s.nCtx r.cmd with
  | error e =>
    rw [step_of_illegal hs hl hd, State.dueStatus, hd]
    exact respond_endsWith []
  | ok i =>
    rw [step_of_command hs hl hd]
    exact exec_endsWith_dueStatus hs hd

/-- Settles O12: the next state is the present one with the error responded. -/
theorem errorsWriteNoState : Obligations.ErrorsWriteNoState := by
  unfold Obligations.ErrorsWriteNoState
  intro s t resp hne ht hresp herr
  obtain rfl := eq_respond_of_step_error hne ht hresp herr
  exact ⟨congrArg Response.result (eq_of_respond_responses rfl hresp), rfl, rfl, rfl⟩

end

section
/-! PROOFS, family 70_reset_and_hazards.md: what the stores hold from reset on (rules R231, R232) and the first request
after reset (rule R235). -/

namespace Sys2Proof.Machine

/-! ## No step writes a store (R232) -/

/-- However a command ends, it writes no store and adds no slot. -/
theorem exec_keeps_stores_nCtx {i : Instr} {s t : State} (ht : exec i s = .next t) :
    t.stores = s.stores ∧ t.nCtx = s.nCtx := by
  rcases exec_cases i s with ⟨st, res, h⟩ | ⟨j, c, res, -, h⟩
  all_goals obtain rfl := Host.Outcome.next.inj (ht.symm.trans h)
  · exact ⟨rfl, rfl⟩
  · exact ⟨rfl, State.setSlot_nCtx s j.toNat c⟩

/-- Nor does a step, whether it waits, rejects a word or runs a command. -/
theorem step_keeps_stores_nCtx {s t : State} (ht : step s = .next t) : t.stores = s.stores ∧ t.nCtx = s.nCtx := by
  cases hs : s.requests with
  | nil =>
    obtain rfl := Host.Outcome.next.inj ((step_of_nil hs).symm.trans ht)
    exact ⟨rfl, rfl⟩
  | cons r rs =>
    rcases Nat.lt_or_ge Config.maxPayload r.payload.length with hl | hl
    · exact nomatch (step_of_tooLong hs hl).symm.trans ht
    cases hd : decode s.nCtx r.cmd with
    | error e =>
      obtain rfl := Host.Outcome.next.inj ((step_of_illegal hs hl hd).symm.trans ht)
      exact ⟨rfl, rfl⟩
    | ok i => exact exec_keeps_stores_nCtx ((step_of_command hs hl hd).symm.trans ht)

/-! ## The status of a legal request (R205) -/

/-- A legal request can fail the state check alone. -/
theorem State.dueStatus_encode {s : State} {i : Instr} {p : Bytes} (hi : i.wellFormed s.nCtx = true)
    (hp : ∀ n, i.payloadLength = some n → p.length = n) :
    s.dueStatus ⟨encode i, p⟩ = if s.rejects i then .invalidState else .ok := by
  have fits : i.payloadLength.any (fun n => p.length != n) = false := by
    cases hn : i.payloadLength with
    | none => rfl
    | some n => simp [hp n hn]
  simp [State.dueStatus, decode_encode hi, fits]

/-- While no slot is live, the state check rejects HASH_UPDATE and HASH_FINAL, and no other command (R203). -/
theorem State.rejects_iff_of_not_live {s : State} (hs : ∀ c ∈ s.slots, c.status.live = false) (i : Instr) :
    s.rejects i = true ↔ ∃ j, i = .hashUpdate j ∨ i = .hashFinal j := by
  have dead : ∀ j : BitVec 8, (s.slots[j.toNat]?.map fun c => c.status.live).getD false = false := fun j => by
    cases hc : s.slots[j.toNat]? with
    | none => rfl
    | some c => exact hs c (List.mem_of_getElem? hc)
  cases i with
  | hashUpdate j => simp [State.rejects, dead]
  | hashFinal j => simp [State.rejects, dead]
  | _ => simp [State.rejects]

/-- No slot is live after reset (R230). -/
theorem live_of_mem_reset_slots : ∀ c ∈ State.reset.slots, c.status.live = false := fun c hc => by
  rw [List.eq_of_mem_replicate hc]
  rfl

end Sys2Proof.Machine

open Sys2Proof Sys2Proof.Machine

/-- Settles O48: the stores a reset gives are its parameters by definition, and no step changes one. -/
theorem storesHoldFromResetOn : Obligations.StoresHoldFromResetOn := by
  unfold Obligations.StoresHoldFromResetOn
  exact ⟨rfl, fun s t ht => step_keeps_stores_nCtx ht, fun s => rfl⟩

/-- Settles O49: the one response has the status that is due, and with no slot live only the state check can fail. -/
theorem firstRequestAfterReset : Obligations.FirstRequestAfterReset := by
  unfold Obligations.FirstRequestAfterReset
  intro i p hi hl hp
  have nCtx : (State.reset.send ⟨encode i, p⟩).nCtx = Config.nCtx := List.length_replicate
  obtain ⟨t, result, ht, hresp⟩ := responseStatusFollowsThePriority (State.reset.send ⟨encode i, p⟩) _ [] rfl hl
  rw [State.dueStatus_encode (nCtx ▸ hi) hp] at hresp
  have rejected := State.rejects_iff_of_not_live (s := State.reset.send ⟨encode i, p⟩) live_of_mem_reset_slots i
  refine ⟨t, _, result, ht, hresp, fun hj => if_pos (rejected.2 hj), fun other => if_neg fun h => ?_⟩
  obtain ⟨j, rfl | rfl⟩ := rejected.1 h
  · exact (other j).1 rfl
  · exact (other j).2 rfl

end

section
/-! PROOFS, family other, the encoding: the words that decode are the encodings of the commands (rules R81 to R84), and
how many there are (rule R89). -/

namespace Sys2Proof

/-! ## The legal words (R82 to R84, R89) -/

section
variable {n : Nat} {w : CommandWord}

/-- A word that decodes has the three fields of the command it decodes to. -/
theorem fields_of_decode {i : Instr} (h : decode n w = .ok i) :
    i.opcode = opcField w ∧ i.ctx = ctxField w ∧ rsvdField w = 0 := by
  unfold decode at h
  split at h
  next => exact nomatch h
  next rsvd =>
    have rsvd0 : rsvdField w = 0 := Decidable.not_not.1 rsvd
    split at h
    case h_11 => exact nomatch h
    case h_7 opc | h_8 opc | h_9 opc =>
      obtain ⟨-, rfl⟩ := decodeSlot_eq_ok.1 h
      exact ⟨(BitVec.eq_of_toNat_eq opc).symm, rfl, rsvd0⟩
    all_goals
      next opc =>
        obtain ⟨ctx0, rfl⟩ := decodePlain_eq_ok.1 h
        exact ⟨(BitVec.eq_of_toNat_eq opc).symm, ctx0.symm, rsvd0⟩

/-- So the word is the command's encoding. -/
theorem encode_of_decode {i : Instr} (h : decode n w = .ok i) : encode i = w := by
  obtain ⟨opc, ctx, rsvd⟩ := fields_of_decode h
  rw [encode, opc, ctx, ← word_eq_of_rsvdField_eq_zero rsvd]

/-- The opcodes that take no slot (R82). -/
def plainOpcodes : List Nat := [0x01, 0x02, 0x10, 0x11, 0x20, 0x21, 0x33]

/-- The hash-context opcodes (R82). -/
def slotOpcodes : List Nat := [0x30, 0x31, 0x32]

/-- The values of `CTX` an opcode admits on an engine with `n` slots (R83). -/
def allowedCtx (n : Nat) (o : BitVec 8) : Finset (BitVec 8) :=
  if o.toNat ∈ plainOpcodes then {0}
  else if o.toNat ∈ slotOpcodes then Finset.univ.filter fun c => c.toNat < n
  else ∅

/-- No opcode is of both kinds. -/
theorem not_slotOpcode_of_plain : ∀ o ∈ plainOpcodes, o ∉ slotOpcodes := by decide

/-- A word is legal when no reserved bit is set and its opcode admits its slot. -/
theorem isSome_decode_iff :
    (decode n w).toOption.isSome = true ↔ rsvdField w = 0 ∧ ctxField w ∈ allowedCtx n (opcField w) := by
  have fails : (decode n w).toOption.isSome = true ↔ ¬ Machine.illegalWord n w := by
    rw [← decode_fails_iff]
    cases decode n w <;> simp [Except.toOption]
  rw [fails, Machine.illegalWord, ← plainOpcodes, ← slotOpcodes, allowedCtx]
  by_cases plain : (opcField w).toNat ∈ plainOpcodes
  · simp [plain, not_slotOpcode_of_plain _ plain]
  · by_cases slot : (opcField w).toNat ∈ slotOpcodes
    · simp [plain, slot]
    · simp [plain, slot]

/-- A slot of an engine with at most 256 is a byte. -/
theorem card_ctx_lt (h : n ≤ 256) : (Finset.univ.filter fun c : BitVec 8 => c.toNat < n).card = n := by
  rw [← Finset.card_image_of_injective _ (fun _ _ => BitVec.eq_of_toNat_eq)]
  refine (congrArg Finset.card ?_).trans (Finset.card_range n)
  ext k
  simp only [Finset.mem_image, Finset.mem_filter, Finset.mem_univ, true_and, Finset.mem_range]
  refine ⟨fun ⟨c, hc, hk⟩ => hk ▸ hc, fun hk => ⟨.ofNat 8 k, ?_⟩⟩
  have byte : (BitVec.ofNat 8 k).toNat = k := Nat.mod_eq_of_lt (by omega)
  simp [hk, byte]

/-- How many slots an opcode admits. -/
theorem card_allowedCtx (h : n ≤ 256) (o : BitVec 8) :
    (allowedCtx n o).card = if o.toNat ∈ plainOpcodes then 1 else if o.toNat ∈ slotOpcodes then n else 0 := by
  unfold allowedCtx
  split_ifs
  · exact Finset.card_singleton 0
  · exact card_ctx_lt h
  · exact Finset.card_empty

/-- The word built from an opcode and a slot (R81). -/
def wordOfFields (o c : BitVec 8) : CommandWord := o.setWidth 32 ||| (c.setWidth 32 <<< 8)

/-- The legal words with a given opcode are built from the slots it admits. -/
theorem legalWords_eq_image (n : Nat) (o : BitVec 8) :
    (Finset.univ.filter fun w : CommandWord => opcField w = o ∧ (decode n w).toOption.isSome = true) =
      (allowedCtx n o).image (wordOfFields o) := by
  ext w
  simp only [Finset.mem_filter, Finset.mem_univ, true_and, Finset.mem_image, isSome_decode_iff]
  constructor
  · rintro ⟨rfl, rsvd, ctx⟩
    exact ⟨_, ctx, (word_eq_of_rsvdField_eq_zero rsvd).symm⟩
  · rintro ⟨c, hc, rfl⟩
    rw [wordOfFields, opcField_build, ctxField_build, rsvdField_build]
    exact ⟨rfl, rfl, hc⟩

/-- As many as the slots, for the slot is read back from the word. -/
theorem card_legalWords (h : n ≤ 256) (o : BitVec 8) :
    (Finset.univ.filter fun w : CommandWord => opcField w = o ∧ (decode n w).toOption.isSome = true).card =
      if o.toNat ∈ plainOpcodes then 1 else if o.toNat ∈ slotOpcodes then n else 0 := by
  have readBack : Function.LeftInverse ctxField (wordOfFields o) := ctxField_build o
  rw [legalWords_eq_image, Finset.card_image_of_injective _ readBack.injective, card_allowedCtx h]

/-- There are seven plain opcodes and three hash-context opcodes, so the words add up to `7 + 3n`. -/
theorem card_all_legalWords (h : n ≤ 256) :
    (Finset.univ.filter fun w : CommandWord => (decode n w).toOption.isSome = true).card = 7 + 3 * n := by
  have sevenPlain : (Finset.univ.filter fun o : BitVec 8 => o.toNat ∈ plainOpcodes).card = 7 := by decide +kernel
  have threeSlot : (Finset.univ.filter fun o : BitVec 8 => o.toNat ∉ plainOpcodes ∧ o.toNat ∈ slotOpcodes).card = 3 := by
    decide +kernel
  rw [Finset.card_eq_sum_card_fiberwise (f := opcField) (t := Finset.univ)
    fun _ _ => Finset.mem_coe.2 (Finset.mem_univ _)]
  simp only [Finset.filter_filter, and_comm (b := opcField _ = _), card_legalWords h]
  rw [Finset.sum_ite, Finset.sum_ite, Finset.filter_filter]
  simp [sevenPlain, threeSlot, mul_comm]

end

end Sys2Proof

open Sys2Proof Sys2Proof.Machine

/-- Settles O1: the fields of the encoding dispatch back to the command. -/
theorem decodeOfEncodeIsTheCommand : Obligations.DecodeOfEncodeIsTheCommand := by
  unfold Obligations.DecodeOfEncodeIsTheCommand
  exact fun _ _ => decode_encode

/-- Settles O2: the decoder checks every field of the word against the command. -/
theorem encodeOfDecodeIsTheWord : Obligations.EncodeOfDecodeIsTheWord := by
  unfold Obligations.EncodeOfDecodeIsTheWord
  exact fun _ _ _ h => ⟨wellFormed_of_decode h, encode_of_decode h⟩

/-- Settles O4: the fields by `fields_of_decode`, and the counts through the words an opcode and its slots build. -/
theorem decoderDispatchesOnOpcAndCounts : Obligations.DecoderDispatchesOnOpcAndCounts := by
  unfold Obligations.DecoderDispatchesOnOpcAndCounts
  refine ⟨fun n w i h => ?fields, fun n hn => ⟨card_legalWords hn, card_all_legalWords hn⟩⟩
  case fields =>
    obtain ⟨opc, ctx, rsvd⟩ := fields_of_decode h
    refine ⟨opc, ctx, rsvd, fun illegal => ?_⟩
    obtain ⟨e, he⟩ := decode_fails_iff.2 illegal
    exact nomatch h.symm.trans he

/-- Settles O5: eleven closed words. -/
theorem writtenOutWordsDecode : Obligations.WrittenOutWordsDecode := by
  unfold Obligations.WrittenOutWordsDecode
  decide

end

section
/-! PROOFS, family other, the state: what a command writes and what it sees of the slots (rules R182, R230) and of the
lanes (rule R44), and that sound states stay sound (rule R43). -/

namespace Sys2Proof.Machine

/-! ## What a step leads to -/

/-- Every next state of a step is that of waiting, of an illegal word or of a command. -/
theorem step_next_cases {s t : State} (ht : step s = .next t) :
    t = s.releaseLanes ∨ t = s.respond .illegalCommand [] ∨ ∃ i, exec i s = .next t := by
  unfold step at ht
  cases hf : s.fetch with
  | idle => rw [hf] at ht; exact .inl (Host.Outcome.next.inj ht).symm
  | tooLong => rw [hf] at ht; exact nomatch ht
  | illegal => rw [hf] at ht; exact .inr (.inl (Host.Outcome.next.inj ht).symm)
  | command i => rw [hf] at ht; exact .inr (.inr ⟨i, ht⟩)

/-- What a slot command that runs puts in the place of the slot `c` it names (R177 to R179). -/
inductive SlotWrite (s : State) (c : Slot) : Instr → Slot → Prop where
  | init (j : BitVec 8) : SlotWrite s c (.hashInit j) (Slot.ofContext .fresh (mdInit s.stores))
  | update (j : BitVec 8) (live : c.status.live = true) :
    SlotWrite s c (.hashUpdate j) (Slot.ofContext .accum (mdUpdate s.stores c.context s.payload))
  | final (j : BitVec 8) (live : c.status.live = true) :
    SlotWrite s c (.hashFinal j) { c with state := (mdFinal s.stores c.context).1.state, status := .final }

/-- A slot command responds and writes nothing else, or it writes its slot as `SlotWrite` says and responds `OK`. -/
theorem exec_slot_cases {i : Instr} {j : BitVec 8} (hi : i ∈ [Instr.hashInit j, .hashUpdate j, .hashFinal j])
    (s : State) :
    (∃ st res, exec i s = .next (s.respond st res)) ∨
    ∃ c d res, s.slots[j.toNat]? = some c ∧ SlotWrite s c i d ∧
      exec i s = .next ((s.setSlot j.toNat d).respond .ok res) := by
  simp only [List.mem_cons, List.not_mem_nil, or_false] at hi
  rcases hi with rfl | rfl | rfl
  · rcases execHashInit_cases j s with ⟨c, hc, -, h⟩ | ⟨_, -, h⟩
    · exact .inr ⟨c, _, _, hc, .init j, h⟩
    · exact .inl ⟨_, _, h⟩
  · rcases execHashUpdate_cases j s with ⟨c, hc, live, h⟩ | ⟨_, -, h⟩
    · exact .inr ⟨c, _, _, hc, .update j live, h⟩
    · exact .inl ⟨_, _, h⟩
  · rcases execHashFinal_cases j s with ⟨c, hc, -, live, h⟩ | ⟨_, -, h⟩
    · exact .inr ⟨c, _, _, hc, .final j live, h⟩
    · exact .inl ⟨_, _, h⟩

/-- The commands that use no slot respond and write nothing else. -/
theorem exec_pure {i : Instr} (hi : i ∈ [Instr.enc, .encLast, .perm256, .perm512, .dm256, .dm512, .hash]) (s : State) :
    ∃ st res, exec i s = .next (s.respond st res) := by
  rcases exec_cases i s with h | ⟨j, _, _, hj, _⟩
  · exact h
  · simp only [List.mem_cons, List.not_mem_nil, or_false] at hj
    rcases hj with rfl | rfl | rfl
    all_goals simp at hi

/-- HASH_FINAL writes `STATE` and `STATUS` alone; when it makes one compression, `STATE` keeps its value (R174, R179). -/
theorem SlotWrite.final_keeps {s : State} {c d : Slot} {j : BitVec 8} (h : SlotWrite s c (.hashFinal j) d) :
    d.buf = c.buf ∧ d.bufLen = c.bufLen ∧ d.totalLen = c.totalLen ∧ (c.buf.length < 24 → d.state = c.state) := by
  cases h with
  | final _ _ => exact ⟨rfl, rfl, rfl, fun short => by rw [mdFinal_of_lt s.stores (ctx := c.context) short]; rfl⟩

/-! ## Sound states (R41, R43) -/

section
variable {s : State}

/-- A sound slot that holds a context buffers fewer than 32 bytes. -/
theorem Slot.Sound.length_buf_lt {k : Stores} {c : Slot} (h : c.Sound k) (held : c.status ≠ .noContext) :
    c.buf.length < 32 := by
  rw [h.buf_eq_total held]
  exact Nat.mod_lt _ (by decide)

/-- A buffer of `TOTAL_LEN mod 32` bytes stays one: 32 divides 2^64, so the counter's wrap does not show (R43). -/
theorem length_buf_mdUpdate_eq_total (k : Stores) (ctx : Context) (d : Bytes)
    (h : ctx.buf.length = ctx.totalLen.toNat % 32) :
    (mdUpdate k ctx d).buf.length = (mdUpdate k ctx d).totalLen.toNat % 32 := by
  rw [length_buf_mdUpdate k ctx d (by omega), mdUpdate_totalLen, BitVec.toNat_add, BitVec.toNat_ofNat]
  omega

/-- A slot just initialised is sound. -/
theorem sound_of_mdInit (k : Stores) : (Slot.ofContext .fresh (mdInit k)).Sound k :=
  ⟨rfl, fun _ => rfl, fun _ => rfl⟩

/-- Whatever a slot command writes is sound, if the slot it replaces was. -/
theorem SlotWrite.sound {c d : Slot} {i : Instr} (h : SlotWrite s c i d) (hc : c.Sound s.stores) : d.Sound s.stores := by
  cases h with
  | init j => exact sound_of_mdInit s.stores
  | update j live =>
    have held := (Lifecycle.ne_of_live live).1
    have total := length_buf_mdUpdate_eq_total s.stores c.context s.payload (hc.buf_eq_total held)
    exact ⟨Nat.mod_eq_of_lt (by omega), fun _ => total, fun h => nomatch h⟩
  | final j live =>
    exact ⟨hc.bufLen_eq, fun _ => hc.buf_eq_total (Lifecycle.ne_of_live live).1, fun h => nomatch h⟩

theorem State.Sound.releaseLanes (h : s.Sound) : s.releaseLanes.Sound := ⟨h.one_le_nCtx, h.nCtx_le, h.slots⟩

theorem State.Sound.respond (h : s.Sound) (st : Status) (res : Bytes) : (s.respond st res).Sound :=
  ⟨h.one_le_nCtx, h.nCtx_le, h.slots⟩

/-- Writing a sound slot keeps the state sound. -/
theorem State.Sound.setSlot (h : s.Sound) (j : Nat) {d : Slot} (hd : d.Sound s.stores) : (s.setSlot j d).Sound := by
  refine ⟨by simpa using h.one_le_nCtx, by simpa using h.nCtx_le, fun c hc => ?_⟩
  rcases List.mem_or_eq_of_mem_set hc with old | rfl
  · exact h.slots c old
  · exact hd

/-- Every command keeps the state sound: it writes no slot, or its own slot as `SlotWrite` says. -/
theorem exec_keeps_sound {i : Instr} {t : State} (h : s.Sound) (ht : exec i s = .next t) : t.Sound := by
  have responds {st : Status} {res : Bytes} (he : exec i s = .next (s.respond st res)) : t.Sound := by
    obtain rfl := Host.Outcome.next.inj (ht.symm.trans he)
    exact h.respond st res
  rcases exec_cases i s with ⟨_, _, he⟩ | ⟨j, _, _, hi, _⟩
  · exact responds he
  · rcases exec_slot_cases hi s with ⟨_, _, he⟩ | ⟨c, d, res, hc, hd, he⟩
    · exact responds he
    · obtain rfl := Host.Outcome.next.inj (ht.symm.trans he)
      exact (h.setSlot _ (hd.sound (h.slots c (List.mem_of_getElem? hc)))).respond _ res

/-- So does every step. -/
theorem step_keeps_sound {t : State} (h : s.Sound) (ht : step s = .next t) : t.Sound := by
  rcases step_next_cases ht with rfl | rfl | ⟨i, hi⟩
  · exact h.releaseLanes
  · exact h.respond _ _
  · exact exec_keeps_sound h hi

/-- A slot after reset is sound whatever the stores: it buffers nothing and holds no context. -/
theorem sound_of_reset (k : Stores) : Slot.reset.Sound k :=
  ⟨rfl, fun held => absurd rfl held, fun h => nomatch h⟩

end

/-! ## What a command sees

A command sees the payload, the stores and the slot it names. -/

/-- For the command `i`, the state `s'` is `s` changed where `i` does not look, and `g` carries the change over to the
states `i` ends in. -/
structure SameView (i : Instr) (g : State → State) (s s' : State) : Prop where
  stores : s'.stores = s.stores
  payload : s'.payload = s.payload
  slot : ∀ j, i ∈ [Instr.hashInit j, .hashUpdate j, .hashFinal j] → s'.slots[j.toNat]? = s.slots[j.toNat]?
  respond : ∀ st res, s'.respond st res = g (s.respond st res)
  write : ∀ j, i ∈ [Instr.hashInit j, .hashUpdate j, .hashFinal j] → ∀ c res,
    (s'.setSlot j.toNat c).respond .ok res = g ((s.setSlot j.toNat c).respond .ok res)

section
variable {i : Instr} {g : State → State} {s s' : State} (h : SameView i g s s')
include h

theorem SameView.requireLength (n : Nat) (k : Outcome) :
    requireLength n s' (mapNext g k) = mapNext g (requireLength n s k) := by
  by_cases len : s.payload.length = n
  · rw [requireLength_of_eq len, requireLength_of_eq (h.payload ▸ len)]
  · rw [requireLength_of_ne len, requireLength_of_ne (h.payload ▸ len), h.respond, mapNext]

theorem SameView.requireLive (c : Slot) (k : Outcome) :
    requireLive c s' (mapNext g k) = mapNext g (requireLive c s k) := by
  cases live : c.status.live with
  | true => rw [requireLive_of_live live, requireLive_of_live live]
  | false => rw [requireLive_of_not_live live, requireLive_of_not_live live, h.respond, mapNext]

theorem SameView.withSlot {j : BitVec 8} (hj : i ∈ [Instr.hashInit j, .hashUpdate j, .hashFinal j])
    (k : Slot → Outcome) : withSlot j s' (fun c => mapNext g (k c)) = mapNext g (withSlot j s k) := by
  cases hc : s.slots[j.toNat]? with
  | none => rw [withSlot_of_none hc, withSlot_of_none ((h.slot j hj).trans hc), h.respond, mapNext]
  | some c => rw [withSlot_of_some hc, withSlot_of_some ((h.slot j hj).trans hc)]

theorem SameView.respondOk (res : Bytes) : respondOk res s' = mapNext g (respondOk res s) :=
  congrArg Host.Outcome.next (h.respond .ok res)

theorem SameView.respondOk_setSlot {j : BitVec 8} (hj : i ∈ [Instr.hashInit j, .hashUpdate j, .hashFinal j])
    (c : Slot) (res : Bytes) :
    Machine.respondOk res (s'.setSlot j.toNat c) = mapNext g (Machine.respondOk res (s.setSlot j.toNat c)) :=
  congrArg Host.Outcome.next (h.write j hj c res)

end

/-- A command does the same from a state that looks the same to it: each operation it is built of does. -/
theorem exec_sameView {i : Instr} {g : State → State} {s s' : State} (h : SameView i g s s') :
    exec i s' = mapNext g (exec i s) := by
  cases i with
  | enc => simp only [exec, execEnc, h.stores, h.payload, h.respondOk, h.requireLength]
  | encLast => simp only [exec, execEncLast, h.stores, h.payload, h.respondOk, h.requireLength]
  | perm256 => simp only [exec, execPerm256, h.stores, h.payload, h.respondOk, h.requireLength]
  | perm512 => simp only [exec, execPerm512, h.stores, h.payload, h.respondOk, h.requireLength]
  | dm256 => simp only [exec, execDm256, h.stores, h.payload, h.respondOk, h.requireLength]
  | dm512 => simp only [exec, execDm512, h.stores, h.payload, h.respondOk, h.requireLength]
  | hashInit j =>
    have named : Instr.hashInit j ∈ [Instr.hashInit j, .hashUpdate j, .hashFinal j] := by simp
    simp only [exec, execHashInit, h.stores, h.respondOk_setSlot named, h.requireLength, h.withSlot named]
  | hashUpdate j =>
    have named : Instr.hashUpdate j ∈ [Instr.hashInit j, .hashUpdate j, .hashFinal j] := by simp
    simp only [exec, execHashUpdate, h.stores, h.payload, h.respondOk_setSlot named, h.requireLive, h.withSlot named]
  | hashFinal j =>
    have named : Instr.hashFinal j ∈ [Instr.hashInit j, .hashUpdate j, .hashFinal j] := by simp
    simp only [exec, execHashFinal, h.stores, h.respondOk_setSlot named, h.requireLive, h.requireLength,
      h.withSlot named]
  | hash => simp only [exec, execHash, h.stores, h.payload, h.respondOk]

/-! ## The slots are independent (R182) -/

section
variable {i : Instr} {s : State}

/-- Two different slots are written in either order. -/
theorem State.setSlot_comm {j k : Nat} (h : j ≠ k) (c d : Slot) :
    (s.setSlot k c).setSlot j d = (s.setSlot j d).setSlot k c := by
  simp only [State.setSlot, List.set_comm _ _ h]

/-- Of two writes to a slot the second stays. -/
theorem State.setSlot_setSlot (j : Nat) (c d : Slot) : (s.setSlot j c).setSlot j d = s.setSlot j d := by
  simp only [State.setSlot, List.set_set]

/-- A command does not see a slot it does not name. -/
theorem exec_setSlot_of_unnamed {k : Nat}
    (unnamed : ∀ j : BitVec 8, i ∈ [Instr.hashInit j, .hashUpdate j, .hashFinal j] → j.toNat ≠ k) (c : Slot) :
    exec i (s.setSlot k c) = mapNext (fun t => t.setSlot k c) (exec i s) :=
  exec_sameView
    { stores := rfl
      payload := rfl
      slot := fun j hj => State.getElem?_setSlot_ne (unnamed j hj)
      respond := fun _ _ => rfl
      write := fun j hj d res => congrArg (fun t => t.respond .ok res) (State.setSlot_comm (unnamed j hj) c d) }

/-- Nor does it write one. -/
theorem slots_of_unnamed {k : Nat} {t : State}
    (unnamed : ∀ j : BitVec 8, i ∈ [Instr.hashInit j, .hashUpdate j, .hashFinal j] → j.toNat ≠ k)
    (ht : exec i s = .next t) : t.slots[k]? = s.slots[k]? := by
  rcases exec_cases i s with ⟨_, _, h⟩ | ⟨j, c, _, hj, h⟩
  all_goals obtain rfl := Host.Outcome.next.inj (ht.symm.trans h)
  · rfl
  · exact State.getElem?_setSlot_ne (unnamed j hj).symm

end

/-! ## The fields of a slot without a context (R230) -/

section
variable {s : State} {j : BitVec 8} {c c' : Slot} (hc : s.slots[j.toNat]? = some c)
include hc

/-- The slot reads back what was put in its place. -/
theorem getElem?_setSlot_of_slot (d : Slot) : (s.setSlot j.toNat d).slots[j.toNat]? = some d :=
  State.getElem?_setSlot_self (nCtx_lt_of_slot hc)

/-- HASH_INIT with a payload is turned away. -/
theorem exec_hashInit_of_payload (hp : s.payload ≠ []) :
    exec (.hashInit j) s = .next (s.respond .invalidLength []) := by
  rw [exec, execHashInit, withSlot_of_some hc, requireLength_of_ne (mt List.eq_nil_of_length_eq_zero hp)]

/-- HASH_FINAL with a payload is turned away. -/
theorem exec_hashFinal_of_payload (hp : s.payload ≠ []) :
    exec (.hashFinal j) s = .next (s.respond .invalidLength []) := by
  rw [exec, execHashFinal, withSlot_of_some hc, requireLength_of_ne (mt List.eq_nil_of_length_eq_zero hp)]

/-- On a slot that is not live a command is turned away with the same error whatever else the slot holds, but for a
HASH_INIT without payload. -/
theorem turned_away_of_not_live {i : Instr} (hi : i ∈ [Instr.hashInit j, .hashUpdate j, .hashFinal j])
    (dead : c.status.live = false) (dead' : c'.status.live = false) :
    (i = .hashInit j ∧ s.payload = []) ∨
    ∃ e, exec i s = .next (s.respond e []) ∧
      exec i (s.setSlot j.toNat c') = .next ((s.setSlot j.toNat c').respond e []) := by
  have hc' := getElem?_setSlot_of_slot hc c'
  simp only [List.mem_cons, List.not_mem_nil, or_false] at hi
  rcases hi with rfl | rfl | rfl
  · by_cases hp : s.payload = []
    · exact .inl ⟨rfl, hp⟩
    · exact .inr ⟨_, exec_hashInit_of_payload hc hp, exec_hashInit_of_payload hc' hp⟩
  · exact .inr ⟨_, exec_hashUpdate_of_not_live hc dead, exec_hashUpdate_of_not_live hc' dead'⟩
  · by_cases hp : s.payload = []
    · exact .inr ⟨_, exec_hashFinal_of_not_live hc hp dead, exec_hashFinal_of_not_live hc' hp dead'⟩
    · exact .inr ⟨_, exec_hashFinal_of_payload hc hp, exec_hashFinal_of_payload hc' hp⟩

end

/-! ## The working lanes (R44) -/

/-- The same machine with other lanes and another count of free values drawn. -/
def State.withLanes (x : Vector Block16 4) (d : Nat) (s : State) : State := { s with lanes := x, draws := d }

/-- The step from other lanes ends in the same state but for the lanes it gives up. -/
theorem step_withLanes (s : State) (x : Vector Block16 4) (d : Nat) :
    step (s.withLanes x d) =
      mapNext (State.withLanes (s.withLanes x d).releaseLanes.lanes (d + 4)) (step s) := by
  have fetched : (s.withLanes x d).fetch = s.fetch := rfl
  simp only [step, fetched]
  cases s.fetch with
  | idle => rfl
  | tooLong => rfl
  | illegal => rfl
  | command i =>
    exact exec_sameView
      { stores := rfl, payload := rfl, slot := fun _ _ => rfl, respond := fun _ _ => rfl, write := fun _ _ _ _ => rfl }

/-- Every command ends by giving the lanes up. -/
theorem exec_gives_lanes_up {i : Instr} {s t : State} (ht : exec i s = .next t) :
    t.draws = s.draws + 4 ∧ t.lanes = s.releaseLanes.lanes := by
  rcases exec_cases i s with ⟨_, _, h⟩ | ⟨_, _, _, _, h⟩
  all_goals
    obtain rfl := Host.Outcome.next.inj (ht.symm.trans h)
    exact ⟨rfl, rfl⟩

/-- So does every step. -/
theorem step_gives_lanes_up {s t : State} (ht : step s = .next t) :
    t.draws = s.draws + 4 ∧ t.lanes = s.releaseLanes.lanes := by
  rcases step_next_cases ht with rfl | rfl | ⟨i, hi⟩
  · exact ⟨rfl, rfl⟩
  · exact ⟨rfl, rfl⟩
  · exact exec_gives_lanes_up hi

end Sys2Proof.Machine

open Sys2Proof Sys2Proof.Machine

/-- Settles O44: what a step writes into a slot is sound, and a sound slot with a context buffers `TOTAL_LEN mod 32`
bytes. -/
theorem everyStepKeepsTheStateSound : Obligations.EveryStepKeepsTheStateSound := by
  unfold Obligations.EveryStepKeepsTheStateSound
  refine ⟨fun s t => step_keeps_sound, fun s c hs hc status => ?_⟩
  have sound := hs.slots c hc
  have held : c.status ≠ .noContext := by rcases status with h | h <;> simp [h]
  exact ⟨sound.length_buf_lt held, sound.bufLen_eq⟩

/-- Settles O14: such a command does nothing but respond. -/
theorem pureCommandsFrame : Obligations.PureCommandsFrame := by
  unfold Obligations.PureCommandsFrame
  intro i s t hi ht
  obtain ⟨st, res, h⟩ := exec_pure hi s
  obtain rfl := Host.Outcome.next.inj (ht.symm.trans h)
  exact ⟨rfl, rfl, rfl, _, rfl⟩

/-- Settles O15: such a command responds, and writes its own slot or none. -/
theorem slotCommandsFrame : Obligations.SlotCommandsFrame := by
  unfold Obligations.SlotCommandsFrame
  intro i j s t hi ht
  rcases exec_slot_cases hi s with ⟨st, res, h⟩ | ⟨c, d, res, hc, hd, h⟩
  all_goals obtain rfl := Host.Outcome.next.inj (ht.symm.trans h)
  · refine ⟨rfl, rfl, rfl, ⟨_, rfl⟩, fun _ _ => rfl, fun _ c c' hc hc' => ?_⟩
    obtain rfl := Option.some.inj (hc.symm.trans hc')
    exact ⟨rfl, rfl, rfl, fun _ => rfl⟩
  · refine ⟨rfl, State.setSlot_nCtx s _ d, rfl, ⟨_, rfl⟩, fun k hk => State.getElem?_setSlot_ne hk, ?final⟩
    case final =>
      rintro rfl c₀ c' hc₀ hc'
      obtain rfl := Option.some.inj (hc.symm.trans hc₀)
      obtain rfl := Option.some.inj ((getElem?_setSlot_of_slot hc d).symm.trans hc')
      exact hd.final_keeps

/-- Settles O42: a command does not see a slot it does not name, and the hash does not see the backend. -/
theorem slotsAreIndependent : Obligations.SlotsAreIndependent := by
  unfold Obligations.SlotsAreIndependent
  exact ⟨fun i s k c unnamed => exec_setSlot_of_unnamed unnamed c, fun c b data => congrFun (mdHash_backend c b) data⟩

/-- Settles O50: a command that does not name the slot does not see it; HASH_UPDATE and HASH_FINAL see only that it is
not live; HASH_INIT is turned away for its payload or writes every field. -/
theorem unspecifiedFieldsAreNeverRead : Obligations.UnspecifiedFieldsAreNeverRead := by
  unfold Obligations.UnspecifiedFieldsAreNeverRead
  intro i s t k c c' hc noContext noContext' ht
  by_cases unnamed : ∀ j : BitVec 8, i ∈ [Instr.hashInit j, .hashUpdate j, .hashFinal j] → j.toNat ≠ k
  · have other := exec_setSlot_of_unnamed (s := s) unnamed c'
    rw [ht] at other
    exact ⟨fun _ => other, fun moved => absurd ((slots_of_unnamed unnamed ht).trans hc) moved⟩
  · push Not at unnamed
    obtain ⟨j, hi, rfl⟩ := unnamed
    have dead : c.status.live = false := by rw [noContext]; rfl
    have dead' : c'.status.live = false := by rw [noContext']; rfl
    rcases turned_away_of_not_live (c' := c') hc hi dead dead' with ⟨rfl, hp⟩ | ⟨e, h, h'⟩
    · obtain rfl := Host.Outcome.next.inj (ht.symm.trans (exec_hashInit_of_slot hc hp))
      have written : ((s.setSlot j.toNat (Slot.ofContext .fresh (mdInit s.stores))).respond .ok []).slots[j.toNat]? =
          some (Slot.ofContext .fresh (mdInit s.stores)) := getElem?_setSlot_of_slot hc _
      refine ⟨fun kept => ?_, fun _ => ⟨by rw [BitVec.ofNat_toNat, BitVec.setWidth_eq], ?_⟩⟩
      · obtain rfl := Option.some.inj (written.symm.trans kept)
        exact nomatch noContext
      · rw [exec_hashInit_of_slot (getElem?_setSlot_of_slot hc c') hp, State.setSlot_setSlot, State.setSlot_stores]
    · obtain rfl := Host.Outcome.next.inj (ht.symm.trans h)
      exact ⟨fun _ => h', fun moved => absurd hc moved⟩

/-- Settles O51: the step from other lanes is the step, with other lanes given up. -/
theorem workingLanesAreUnobservable : Obligations.WorkingLanesAreUnobservable := by
  unfold Obligations.WorkingLanesAreUnobservable
  intro s t x d ht
  have other := step_withLanes s x d
  rw [ht] at other
  exact ⟨_, other, rfl, rfl, rfl, rfl⟩

/-- Settles O47: each lane given up is a free value. -/
theorem everyStepGivesTheLanesUp : Obligations.EveryStepGivesTheLanesUp := by
  unfold Obligations.EveryStepGivesTheLanesUp
  intro s t ht
  obtain ⟨draws, lanes⟩ := step_gives_lanes_up ht
  exact ⟨draws, fun k hk => by rw [lanes, State.releaseLanes_lanes s k hk]⟩

/-- Settles O7: the word decodes, so the step is the command's. -/
theorem stepRunsTheDecodedCommand : Obligations.StepRunsTheDecodedCommand := by
  unfold Obligations.StepRunsTheDecodedCommand
  exact fun s r rs i hs hl hd => ⟨step_of_command hs hl hd, State.payload_of_cons hs⟩

/-- Settles O8: an idle step gives the lanes up and nothing else. -/
theorem stepWithoutRequestWaits : Obligations.StepWithoutRequestWaits := by
  unfold Obligations.StepWithoutRequestWaits
  exact fun s hs => ⟨_, step_of_nil hs, rfl, rfl, hs, rfl⟩

/-- Settles O45: at least one slot and at most 256, each as reset leaves it, and no request. -/
theorem resetIsSound : Obligations.ResetIsSound := by
  unfold Obligations.ResetIsSound
  have nCtx : State.reset.nCtx = Config.nCtx := List.length_replicate
  refine ⟨⟨?least, ?most, fun c hc => ?slot⟩, fun r hr => nomatch hr⟩
  case least => rw [nCtx]; exact Nat.succ_pos _
  case most => rw [nCtx]; exact Config.slotsBeyondFirst.isLt
  case slot => rw [List.eq_of_mem_replicate hc]; exact sound_of_reset _

/-- Settles O46: every slot is the reset slot, and the port is empty. -/
theorem resetLeavesNoContext : Obligations.ResetLeavesNoContext := by
  unfold Obligations.ResetLeavesNoContext
  have noContext {n : Nat} : ∀ c ∈ List.replicate n Slot.reset, c.status = .noContext := fun c hc => by
    rw [List.eq_of_mem_replicate hc]
    rfl
  exact ⟨⟨List.length_replicate, noContext, rfl, rfl⟩, fun s => ⟨List.length_replicate, noContext, rfl, rfl⟩⟩

end

section
/-! PROOFS, family other, the computations: the laws of the rounds (rule R107), the commands ENC, ENC_LAST, DM256 and
DM512, and the streaming hash against the padded message and against itself in pieces (rules R175, R181, R183). -/

namespace Sys2Proof.Machine

/-- SubBytes acts on each byte alone, so it commutes with moving them (R107). -/
theorem shiftRows_subBytes (sbox : Block 256) (s : Block16) :
    shiftRows (subBytes sbox s) = subBytes sbox (shiftRows s) := by
  ext i hi : 1
  simp

/-! ## Finalization as a chain (R174, R175) -/

section
variable {ctx : Context} (k : Stores)

theorem finalBlocks_of_lt (h : ctx.buf.length < 24) : finalBlocks ctx = [padOne ctx] := if_pos h

theorem finalBlocks_of_le (h : 24 ≤ ctx.buf.length) : finalBlocks ctx = [padFirst ctx, padSecond ctx] :=
  if_neg (Nat.not_lt.2 h)

theorem length_padOne (h : ctx.buf.length < 24) : (padOne ctx).length = 32 := by
  simp only [padOne, List.length_append, List.length_singleton, List.length_replicate, Vector.length_toList]
  omega

theorem length_padFirst (h : ctx.buf.length < 32) : (padFirst ctx).length = 32 := by
  simp only [padFirst, List.length_append, List.length_singleton, List.length_replicate]
  omega

theorem length_padSecond : (padSecond ctx).length = 32 := by
  simp only [padSecond, List.length_append, List.length_replicate, Vector.length_toList]

/-- Every final block is a whole block. -/
theorem length_eq_of_mem_finalBlocks (h : ctx.buf.length < 32) : ∀ b ∈ finalBlocks ctx, b.length = 32 := by
  rcases Nat.lt_or_ge ctx.buf.length 24 with short | long
  · rw [finalBlocks_of_lt short]
    exact List.forall_mem_singleton.2 (length_padOne short)
  · rw [finalBlocks_of_le long]
    exact List.forall_mem_cons.2 ⟨length_padFirst h, List.forall_mem_singleton.2 length_padSecond⟩

/-- The chain over one block is one compression. -/
theorem chainBlocks_one (st : Block32) (d : Bytes) : chainBlocks k 1 st d = chain k st d := by
  rw [chainBlocks_succ, chainBlocks_zero]

/-- The chain over a whole block and one more block is two compressions. -/
theorem chainBlocks_two (st : Block32) {a : Bytes} (ha : a.length = 32) (b : Bytes) :
    chainBlocks k 2 st (a ++ b) = chain k (chain k st a) b := by
  have first : chain k st (a ++ b) = chain k st a := by
    rw [chain, chain, blockOfBytes_append_left ha.ge]
  rw [chainBlocks_succ, chainBlocks_one, first, ← ha, List.drop_left]

/-- The chain over the front of a message needs no more of it. -/
theorem chainBlocks_take (st : Block32) {q : Nat} {d : Bytes} (h : 32 * q ≤ d.length) :
    chainBlocks k q st (d.take (32 * q)) = chainBlocks k q st d := by
  have front := chainBlocks_append_left k st q (d.take (32 * q)) (d.drop (32 * q)) (List.length_take_of_le h).ge
  rw [← front, List.take_append_drop]

/-- The digest is the chain over the final blocks. -/
theorem digest_mdFinal (h : ctx.buf.length < 32) :
    (mdFinal k ctx).2 = chainBlocks k (finalBlocks ctx).length ctx.state (finalBlocks ctx).flatten := by
  rcases Nat.lt_or_ge ctx.buf.length 24 with short | long
  · rw [mdFinal_of_lt k short, finalBlocks_of_lt short, List.flatten_singleton]
    exact (chainBlocks_one k _ _).symm
  · rw [mdFinal_of_le k long, finalBlocks_of_le long, List.flatten_cons, List.flatten_singleton]
    exact (chainBlocks_two k _ (length_padFirst h) _).symm

/-- The new `STATE` is the chain over all final blocks but the last. -/
theorem state_mdFinal (h : ctx.buf.length < 32) :
    (mdFinal k ctx).1.state =
      chainBlocks k ((finalBlocks ctx).length - 1) ctx.state (finalBlocks ctx).flatten := by
  rcases Nat.lt_or_ge ctx.buf.length 24 with short | long
  · rw [mdFinal_of_lt k short, finalBlocks_of_lt short]
    rfl
  · rw [mdFinal_of_le k long, finalBlocks_of_le long, List.flatten_cons, List.flatten_singleton]
    refine .trans ?_ (chainBlocks_append_left k ctx.state 1 _ _ (length_padFirst h).ge).symm
    exact (chainBlocks_one k _ _).symm

/-- `md_final` leaves the buffer and the counter. -/
theorem mdFinal_keeps (ctx : Context) :
    (mdFinal k ctx).1.buf = ctx.buf ∧ (mdFinal k ctx).1.totalLen = ctx.totalLen := by
  unfold mdFinal
  split
  · exact ⟨rfl, rfl⟩
  · exact ⟨rfl, rfl⟩

/-- The final blocks joined are the buffer, `0x80`, zeros up to 24 bytes into a block and `LEN8`, whether that makes one
block or two. -/
theorem flatten_finalBlocks (h : ctx.buf.length < 32) :
    (finalBlocks ctx).flatten =
      ctx.buf ++ [0x80] ++ List.replicate ((55 - ctx.buf.length) % 32) 0x00 ++ (len8 ctx.totalLen).toList := by
  rcases Nat.lt_or_ge ctx.buf.length 24 with short | long
  · have zeros : (55 - ctx.buf.length) % 32 = 23 - ctx.buf.length := by omega
    rw [finalBlocks_of_lt short, List.flatten_singleton, padOne, zeros]
  · have zeros : (55 - ctx.buf.length) % 32 = (31 - ctx.buf.length) + 24 := by omega
    rw [finalBlocks_of_le long, List.flatten_cons, List.flatten_singleton, padFirst, padSecond, zeros,
      List.replicate_add]
    simp only [List.append_assoc]

/-- And they are whole blocks. -/
theorem length_flatten_finalBlocks (h : ctx.buf.length < 32) :
    (finalBlocks ctx).flatten.length = 32 * (finalBlocks ctx).length := by
  rw [List.length_flatten, List.map_congr_left (length_eq_of_mem_finalBlocks h), List.map_const', List.sum_replicate_nat,
    Nat.mul_comm]

end

/-! ## The hash as a chain over the padded message -/

section
variable (k : Stores) (data : Bytes)

/-- What `md_update` makes of a message from the start: the chain over its whole blocks, and the bytes after them. -/
theorem mdUpdate_mdInit :
    mdUpdate k (mdInit k) data =
      ⟨chainBlocks k (data.length / 32) k.hashIv data, data.drop (32 * (data.length / 32)),
        BitVec.ofNat 64 data.length⟩ := by
  rw [mdUpdate_eq k (mdInit k) data (by simp [mdInit])]
  simp [mdInit]

theorem length_buf_message : (mdUpdate k (mdInit k) data).buf.length = data.length % 32 := by
  rw [length_buf_mdUpdate k (mdInit k) data (by simp [mdInit])]
  simp [mdInit]

theorem length_buf_message_lt : (mdUpdate k (mdInit k) data).buf.length < 32 :=
  length_buf_message k data ▸ Nat.mod_lt _ (by decide)

/-- The padded message is the whole blocks of the message, then the final blocks. -/
theorem padMessage_eq :
    padMessage data =
      data.take (32 * (data.length / 32)) ++ (finalBlocks (mdUpdate k (mdInit k) data)).flatten := by
  have bits : BitVec.ofNat 64 data.length * 8 = BitVec.ofNat 64 (8 * data.length) := by
    rw [BitVec.ofNat_mul, BitVec.mul_comm]
    rfl
  rw [flatten_finalBlocks (length_buf_message_lt k data), length_buf_message, mdUpdate_mdInit, len8, bits, padMessage]
  simp only [← List.append_assoc, List.take_append_drop]

/-- So it is a whole number of blocks: those of the message and the final ones. -/
theorem length_padMessage :
    (padMessage data).length = 32 * (data.length / 32 + (finalBlocks (mdUpdate k (mdInit k) data)).length) := by
  rw [padMessage_eq k, List.length_append, List.length_take_of_le (Nat.mul_div_le _ _),
    length_flatten_finalBlocks (length_buf_message_lt k data), Nat.mul_add]

/-- The one-shot hash is the chain over those blocks: over the message's, then over the final ones. -/
theorem mdHash_eq :
    mdHash k data =
      chainBlocks k (data.length / 32 + (finalBlocks (mdUpdate k (mdInit k) data)).length) k.hashIv
        (padMessage data) := by
  have whole : (data.take (32 * (data.length / 32))).length = 32 * (data.length / 32) :=
    List.length_take_of_le (Nat.mul_div_le _ _)
  have absorbed : chainBlocks k (data.length / 32) k.hashIv (padMessage data) =
      (mdUpdate k (mdInit k) data).state := by
    rw [padMessage_eq k, chainBlocks_append_left k _ _ _ _ whole.ge, chainBlocks_take k _ (Nat.mul_div_le _ _),
      mdUpdate_mdInit]
  rw [chainBlocks_add, absorbed, padMessage_eq k, List.drop_left' whole, mdHash,
    digest_mdFinal k (length_buf_message_lt k data)]

end

/-! ## The length field tells messages apart (R183) -/

/-- `BE64` loses nothing. -/
theorem be64_injective : Function.Injective be64 := fun v w h =>
  BitVec.eq_of_toNat_eq (by rw [← readBE_be64 v, h, readBE_be64])

/-- `LEN8` loses the three top bits of the counter and no other. -/
theorem mod_eq_of_len8_eq {v w : BitVec 64} (h : len8 v = len8 w) : v.toNat % 2 ^ 61 = w.toNat % 2 ^ 61 := by
  have bits : v.toNat * 8 % 2 ^ 64 = w.toNat * 8 % 2 ^ 64 := congrArg BitVec.toNat (be64_injective h)
  omega

/-- The last eight bytes of the last block are `LEN8`. -/
theorem len8_of_getLast?_finalBlocks (ctx : Context) :
    ((finalBlocks ctx).getLast?.map fun b => (b.drop 24).take 8) = some (len8 ctx.totalLen).toList := by
  obtain ⟨p, hp, last⟩ := getLast?_finalBlocks ctx
  rw [last, Option.map_some, ← hp, List.drop_left, List.take_of_length_le (by simp)]

/-! ## A streaming hash, request by request (R181) -/

section
variable {s : State} {j : BitVec 8} {i : Instr} {p : Bytes} {rs : List Request}

/-- A slot holds the context it was made of. -/
@[simp] theorem Slot.context_ofContext (st : Lifecycle) (ctx : Context) : (Slot.ofContext st ctx).context = ctx := rfl

/-- A request spelt by `encode` runs its command. -/
theorem step_of_encode (hs : s.requests = ⟨encode i, p⟩ :: rs) (hp : p.length ≤ Config.maxPayload)
    (hi : i.wellFormed s.nCtx = true) : step s = exec i s :=
  step_of_command hs hp (decode_encode hi)

variable {c : Slot} (hc : s.slots[j.toNat]? = some c) (live : c.status.live = true)
include hc live

/-- The updates, then HASH_FINAL, by induction on the chunks: each step updates the slot's context with its chunk, and the
rest of the run goes on from there. -/
theorem run_updates_final (ds : List Bytes) (hbuf : c.buf.length < 32)
    (hs : s.requests = ds.map (fun d => ⟨encode (.hashUpdate j), d⟩) ++ [⟨encode (.hashFinal j), []⟩])
    (limit : ∀ d ∈ ds, d.length ≤ Config.maxPayload) :
    ∃ t, Host.Core.run core (ds.length + 1) s = .next t ∧ t.requests = [] ∧
      t.responses = s.responses ++ List.replicate ds.length ⟨.ok, []⟩ ++
        [⟨.ok, (mdFinal s.stores (mdUpdate s.stores c.context ds.flatten)).2.toList⟩] := by
  induction ds generalizing s c with
  | nil =>
    have exists_slot := decide_eq_true (nCtx_lt_of_slot hc)
    have final := (step_of_encode hs (Nat.zero_le _) exists_slot).trans
      (exec_hashFinal_of_live hc (State.payload_of_cons hs) live)
    refine ⟨_, run_succ_of_step final 0, congrArg List.tail hs, ?_⟩
    rw [List.flatten_nil, mdUpdate_nil s.stores c.context hbuf]
    simp
  | cons d ds ih =>
    have exists_slot := decide_eq_true (nCtx_lt_of_slot hc)
    obtain ⟨limit_d, limit_ds⟩ := List.forall_mem_cons.1 limit
    have update := (step_of_encode hs limit_d exists_slot).trans (exec_hashUpdate_of_live hc live)
    rw [State.payload_of_cons hs] at update
    have rem := length_buf_mdUpdate s.stores c.context d hbuf
    obtain ⟨t, hrun, hnil, hresp⟩ := ih
      (s := (s.setSlot j.toNat (Slot.ofContext .accum (mdUpdate s.stores c.context d))).respond .ok [])
      (getElem?_setSlot_of_slot hc _) rfl (rem.trans_lt (Nat.mod_lt _ (by decide))) (congrArg List.tail hs) limit_ds
    refine ⟨t, (run_succ_of_step update _).trans hrun, hnil, ?_⟩
    rw [hresp, List.flatten_cons, ← mdUpdate_append s.stores c.context d _ hbuf]
    simp [List.replicate_succ]

end

end Sys2Proof.Machine

open Sys2Proof Sys2Proof.Machine

/-- Settles O20: the key enters by XOR, and SubBytes acts byte by byte. -/
theorem roundPrimitiveLaws : Obligations.RoundPrimitiveLaws := by
  unfold Obligations.RoundPrimitiveLaws
  intro c s k
  simp only [enc_eq, encLast_eq, addRoundKey, xorBlock_zero16, shiftRows_subBytes, and_self]

/-- Settles O21: SubBytes, ShiftRows and MixColumns keep sixteen copies of one byte sixteen copies of one. -/
theorem constantStateRounds : Obligations.ConstantStateRounds := by
  unfold Obligations.ConstantStateRounds
  exact fun c v k => ⟨enc_rep c v k, encLast_rep c v k⟩

/-- Settles O23: the length check, then the round the latched backend computes. -/
theorem encCommandsRespond : Obligations.EncCommandsRespond := by
  unfold Obligations.EncCommandsRespond
  refine fun s => ⟨fun h => ⟨?enc, ?encLast⟩, fun h => ⟨requireLength_of_ne h, requireLength_of_ne h⟩⟩
  case enc => rw [exec, execEnc, requireLength_of_eq h, enc_eq, respondOk]
  case encLast => rw [exec, execEncLast, requireLength_of_eq h, encLast_eq, respondOk]

/-- Settles O32: the length check, then the compressor. -/
theorem compressorCommandsRespond : Obligations.CompressorCommandsRespond := by
  unfold Obligations.CompressorCommandsRespond
  exact fun s => ⟨fun h => requireLength_of_eq h, fun h => requireLength_of_ne h, fun h => requireLength_of_eq h,
    fun h => requireLength_of_ne h⟩

/-- Settles O39: the final blocks by the number of buffered bytes. -/
theorem finalMakesOneOrTwoCompressions : Obligations.FinalMakesOneOrTwoCompressions := by
  unfold Obligations.FinalMakesOneOrTwoCompressions
  intro c ctx h
  refine ⟨?count, length_eq_of_mem_finalBlocks h, digest_mdFinal c h, state_mdFinal c h, mdFinal_keeps c ctx⟩
  case count =>
    rcases Nat.lt_or_ge ctx.buf.length 24 with short | long
    · rw [finalBlocks_of_lt short, if_pos (Nat.le_of_lt_succ short)]
      rfl
    · rw [finalBlocks_of_le long, if_neg (Nat.not_le.2 long)]
      rfl

/-- Settles O40: the padded message is the blocks `md_update` absorbs, then those `md_final` compresses. -/
theorem hashIsTheChainOverThePaddedMessage : Obligations.HashIsTheChainOverThePaddedMessage := by
  unfold Obligations.HashIsTheChainOverThePaddedMessage
  intro c data
  have len := length_padMessage c data
  refine ⟨by rw [len, Nat.mul_mod_right], ?_⟩
  rw [len, Nat.mul_div_cancel_left _ (by decide), mdHash_eq]

/-- Settles O41: updates piece by piece are one update, and the run is `run_updates_final` after HASH_INIT. -/
theorem streamingEqualsOneShot : Obligations.StreamingEqualsOneShot := by
  unfold Obligations.StreamingEqualsOneShot
  refine ⟨fun c ctx ds h => foldl_mdUpdate c ds ctx h, fun s j ds hj hs limit => ?_⟩
  have hc := List.getElem?_eq_getElem hj
  have init := (step_of_encode hs (Nat.zero_le _) (decide_eq_true hj)).trans
    (exec_hashInit_of_slot hc (State.payload_of_cons hs))
  obtain ⟨t, hrun, hnil, hresp⟩ := run_updates_final
    (s := (s.setSlot j.toNat (Slot.ofContext .fresh (mdInit s.stores))).respond .ok [])
    (getElem?_setSlot_of_slot hc _) rfl ds (Nat.zero_lt_succ 31) (congrArg List.tail hs) limit
  refine ⟨t, (run_succ_of_step init _).trans hrun, hnil, ?_⟩
  rw [hresp, mdHash]
  simp [List.replicate_succ]

/-- Settles O43: the last block ends in `LEN8`, from which the counter is read back modulo 2^61. -/
theorem lengthDistinguishesTheLastBlock : Obligations.LengthDistinguishesTheLastBlock := by
  unfold Obligations.LengthDistinguishesTheLastBlock
  refine ⟨fun ctx _ => len8_of_getLast?_finalBlocks ctx, fun ctx ctx' _ _ differ same => differ ?_⟩
  have fields := len8_of_getLast?_finalBlocks ctx
  rw [same, len8_of_getLast?_finalBlocks ctx', Option.some_inj] at fields
  exact mod_eq_of_len8_eq (Vector.toList_inj.1 fields).symm

end
